-- ==== Sys2Proof/Word.lean ====
section
/-! DEFINITION. The widths of the block's values (R9, R10, R15). -/

namespace Sys2Proof

/-- `u8`: one byte on the bus (R10). -/
abbrev Byte := BitVec 8

/-- `u16`: the width of every device register (R10, R15). An `i16` is kept as its 16-bit pattern. -/
abbrev Word := BitVec 16

/-- A 7-bit bus address (R39). -/
abbrev Addr := BitVec 7

/-- `f64`: an IEEE 754 binary64 value as its 64-bit pattern (R10, D43). -/
abbrev F64 := BitVec 64

/-- `sext_16`: a 16-bit pattern read as an `i16` (R10). -/
abbrev sext16 (v : Word) : Int := v.toInt

end Sys2Proof
end

