-- ==== Sys2Proof/Machine/Fp.lean ====
section
/-! DEFINITION. IEEE 754 binary64 as far as the block needs it: multiply and divide rounded to nearest with ties to
even (R14 `⊗` and `⊘`, D43), conversion of integers (R14 `f64`), comparison, and rounding half away from zero (R14).
A finite value is the exact fraction `mantissa · 2^(e - 1075)`; every operation computes on fractions of natural
numbers and rounds once at the end. -/

namespace Sys2Proof.Machine

namespace Fp

/-- The sign bit. -/
def sign (x : F64) : Bool := x.msb

/-- The biased exponent field. -/
def expField (x : F64) : Nat := (x.extractLsb' 52 11).toNat

/-- The fraction field. -/
def fracField (x : F64) : Nat := (x.extractLsb' 0 52).toNat

/-- Neither NaN nor an infinity. -/
def isFinite (x : F64) : Bool := expField x != 2047

/-- A NaN. -/
def isNaN (x : F64) : Bool := expField x == 2047 && fracField x != 0

/-- `+∞` or `−∞`. -/
def isInf (x : F64) : Bool := expField x == 2047 && fracField x == 0

/-- The value `+0.0` or `−0.0`. -/
def isZero (x : F64) : Bool := expField x == 0 && fracField x == 0

/-- The integer significand of a finite value, hidden bit included. -/
def mantissa (x : F64) : Nat := if expField x = 0 then fracField x else fracField x + 2 ^ 52

/-- The biased exponent that goes with `mantissa`: the magnitude is `mantissa · 2^(scale - 1075)`. -/
def scale (x : F64) : Nat := if expField x = 0 then 1 else expField x

/-- The magnitude of a finite value as a fraction: numerator. -/
def num (x : F64) : Nat := mantissa x * 2 ^ (scale x - 1075)

/-- The magnitude of a finite value as a fraction: denominator, a power of two. -/
def den (x : F64) : Nat := 2 ^ (1075 - scale x)

/-- A value from its sign and the other 63 bits. -/
def pack (neg : Bool) (magnitude : Nat) : F64 := BitVec.ofBool neg ++ BitVec.ofNat 63 magnitude

/-- The 63 magnitude bits of an infinity. -/
def infBits : Nat := 2047 * 2 ^ 52

/-- A quiet NaN. No rule of the block reaches it (log entry 15). -/
def nan : F64 := 0x7FF8000000000000#64

/-- `⌊log₂ (n / d)⌋` for positive `n` and `d`. -/
def fracLog2 (n d : Nat) : Int :=
  let est : Int := (n.log2 : Int) - (d.log2 : Int)
  if n * 2 ^ (-est).toNat < d * 2 ^ est.toNat then est - 1 else est

/-- The binary64 value nearest to `± n / d`, ties to even (R14, D43); `d` is positive. -/
def round (neg : Bool) (n d : Nat) : F64 :=
  if n = 0 then pack neg 0
  else
    let e : Int := max (fracLog2 n d - 52) (-1074)
    let a := n * 2 ^ (-e).toNat
    let b := d * 2 ^ e.toNat
    let q := a / b
    let r := a % b
    let q := if b < 2 * r ∨ (2 * r = b ∧ q % 2 = 1) then q + 1 else q
    pack neg (min ((e + 1074).toNat * 2 ^ 52 + q) infBits)

/-- `f64(n)`: an integer as a binary64 value, exact up to magnitude 2^53 (R14). -/
def ofInt (i : Int) : F64 := round (decide (i < 0)) i.natAbs 1

/-- `⊗`: multiplication (R14). -/
def mul (x y : F64) : F64 :=
  let neg := sign x != sign y
  if isNaN x || isNaN y then nan
  else if isInf x || isInf y then (if isZero x || isZero y then nan else pack neg infBits)
  else round neg (num x * num y) (den x * den y)

/-- `⊘`: division (R14). -/
def div (x y : F64) : F64 :=
  let neg := sign x != sign y
  if isNaN x || isNaN y then nan
  else if isInf x then (if isInf y then nan else pack neg infBits)
  else if isInf y then pack neg 0
  else if isZero y then (if isZero x then nan else pack neg infBits)
  else round neg (num x * den y) (den x * num y)

/-- A finite value as an integer key that orders as the values do; `+0.0` and `−0.0` have one key. -/
def key (x : F64) : Int :=
  let m : Int := (x.extractLsb' 0 63).toNat
  if sign x then -m else m

/-- `x > y` on finite values. -/
def gt (x y : F64) : Bool := decide (key y < key x)

/-- `round_half_away`: the integer nearest a finite value, ties away from zero (R14). -/
def roundHalfAway (x : F64) : Int :=
  let m : Int := (2 * num x + den x) / (2 * den x)
  if sign x then -m else m

end Fp

end Sys2Proof.Machine
end

