-- ==== Sys2Proof/Syntax.lean ====
section
/-! DEFINITION. The block's vocabulary (enumerations of R20, R51, R56 to R61), the bus frames (R53) and the
instructions: one constructor of `Instr` per row of spec/opcode_table.json. -/

namespace Sys2Proof

/-- The level the ADDR pin is strapped to; it selects the bus address (R40, R51). -/
inductive Strap
  | gnd | vdd | sda | scl
  deriving DecidableEq, Repr, Inhabited

/-- The four device registers, by pointer 0 to 3 (R20). -/
inductive Reg
  | conversion | config | low | high
  deriving DecidableEq, Repr, Inhabited

/-- The registers a bus write may address: all but Conversion, which is read-only (R20, R77). -/
inductive WReg
  | config | low | high
  deriving DecidableEq, Repr, Inhabited

/-- Input pair selected by MUX (R56). -/
inductive Channel
  | ain0Ain1 | ain0Ain3 | ain1Ain3 | ain2Ain3 | ain0Gnd | ain1Gnd | ain2Gnd | ain3Gnd
  deriving DecidableEq, Repr, Inhabited

/-- Full-scale range selected by PGA (R57). -/
inductive Gain
  | fs6144 | fs4096 | fs2048 | fs1024 | fs0512 | fs0256
  deriving DecidableEq, Repr, Inhabited

/-- MODE field (R58). -/
inductive Mode
  | continuous | singleShot
  deriving DecidableEq, Repr, Inhabited

/-- DR field (R59). -/
inductive DataRate
  | sps8 | sps16 | sps32 | sps64 | sps128 | sps250 | sps475 | sps860
  deriving DecidableEq, Repr, Inhabited

/-- COMP_MODE field (R60). -/
inductive CompareMode
  | traditional | window
  deriving DecidableEq, Repr, Inhabited

/-- COMP_POL field (R60). -/
inductive Polarity
  | activeLow | activeHigh
  deriving DecidableEq, Repr, Inhabited

/-- COMP_LAT field (R60). -/
inductive Latch
  | nonLatching | latching
  deriving DecidableEq, Repr, Inhabited

/-- COMP_QUE field (R61). -/
inductive Queue
  | one | two | four | disabled
  deriving DecidableEq, Repr, Inhabited

/-- The nine fields of the Config word (R85). -/
structure ConfigFields where
  trigger     : Bool
  channel     : Channel
  gain        : Gain
  mode        : Mode
  dataRate    : DataRate
  compareMode : CompareMode
  polarity    : Polarity
  latch       : Latch
  queue       : Queue
  deriving DecidableEq, Repr, Inhabited

/-- A bus frame (R53). The data bytes of a read frame are sent by the device, so the frame carries none. -/
inductive Frame
  | ptr (a : Addr) (p : Reg)
  | wr (a : Addr) (r : WReg) (v : Word)
  | rd (a : Addr)
  deriving DecidableEq, Repr, Inhabited

/-- The instructions: the 21 host commands of R67 and the 6 bus-frame rows of R53.
Enumeration operands of a host command are raw indices, checked at the command boundary (R66, R140); `i16`, `u16`
and `f64` operands are bit patterns; `int ≥ 0` operands are natural numbers. -/
inductive Instr
  | init (address : Nat)
  | deinit
  | readRegister (regId : Nat)
  | writeRegister (regId : Nat) (value : Word)
  | buildConfig (channel gain mode dataRate compareMode polarity latch queueDepth : Nat) (trigger : Bool)
  | decodeConfig (word : Word)
  | scaleToVoltage (raw : Word) (gain : Nat)
  | voltsToCode (volts : F64) (gain : Nat)
  | startSingleShot (channel gain : Nat)
  | pollUntilReady (dataRate : Nat)
  | readConversion (gain : Nat)
  | startContinuous (channel gain dataRate : Nat)
  | delay (ms : Nat)
  | setThresholds (low high : Word)
  | enableComparator (channel gain compareMode polarity latch queueDepth : Nat)
  | armComparator (channel gain compareMode polarity latch queueDepth : Nat) (low high : F64)
  | disableComparator
  | armAlertLine
  | disarmAlertLine
  | clearAlertFlag
  | waitForAlert (timeoutSamples gain : Nat)
  | ptr (a : Strap) (p : Reg)
  | wrConversion (a : Strap) (v : Word)
  | wrConfig (a : Strap) (v : Word)
  | wrLoThresh (a : Strap) (v : Word)
  | wrHiThresh (a : Strap) (v : Word)
  | rd (a : Strap)
  deriving DecidableEq, Repr, Inhabited

end Sys2Proof
end

