-- ==== Sys2Proof/Config.lean ====
section
/-! DEFINITION. The implementation parameters of R7 and the free values: what the spec leaves to the environment
(R13 `draw`) or to the integrator (OPEN). A free value is an opaque constant, applied to the counter `Env.drawn`
where a fresh one is needed each time. -/

namespace Sys2Proof

/-! ### What the environment can answer -/

/-- The bus's answer to one frame (R73). After a Nak or a Timeout the device has taken no effect or the full effect. -/
inductive BusAnswer
  | ack
  | nak (took : Bool)
  | timeout (took : Bool)
  deriving DecidableEq, Repr, Inhabited

/-- The draws of one controller step of another session: the bus's answer to its frame (R73), what OS reads where the
frame reads it in Continuous mode (R104), and whether its line collaborator arms (R132). -/
structure Draws where
  bus  : BusAnswer
  os   : Bool
  arms : Bool
  deriving DecidableEq, Repr, Inhabited

/-- One step of an agent other than the running session's controller, taken in a gap between two of its steps
(R6, R46). -/
inductive AgentStep
  /-- The converter of the device at `a` completes a conversion with result `sample` (R106). `alertDraw` and `cntDraw`
  are the draws of R121, used only under the conversion-ready threshold combination. -/
  | convert (a : Strap) (sample : Word) (alertDraw : Bool) (cntDraw : Nat)
  /-- The interrupt line of the running session delivers its edge (R127). -/
  | deliver
  /-- The interrupt line of the `k`-th other session delivers its edge (R127, R151). -/
  | deliverOther (k : Nat)
  /-- The `k`-th other session takes its next controller step: at most one whole frame (R46, R151). -/
  | controller (k : Nat) (draws : Draws)
  /-- A whole frame of a caller outside this state takes effect (R151, R168). -/
  | foreign (f : Frame)
  deriving DecidableEq, Repr, Inhabited

namespace Config

/-! ### Fixed parameters (R7) -/

/-- CONFIG_DEFAULT, also DEV_RESET_CONFIG (R7, R90). -/
def configDefault : Word := 0x8583#16

/-- DEV_RESET_CONV (R7). -/
def devResetConv : Word := 0x0000#16

/-- DEV_RESET_LO (R7). -/
def devResetLo : Word := 0x8000#16

/-- DEV_RESET_HI (R7). -/
def devResetHi : Word := 0x7FFF#16

/-- CMP_RESET_ON_CONFIG_WRITE (R7, D17). -/
def cmpResetOnConfigWrite : Bool := true

/-- RDY_COMBINATION_IS_DRAW (R7, D18). -/
def rdyCombinationIsDraw : Bool := true

/-- ASSUME_SETTLE_SUFFICIENT (R7, D37). -/
def assumeSettleSufficient : Bool := false

/-! ### OPEN parameters (R7, U18): the spec gives no value, so none can be computed with -/

/-- POLL_INTERVAL_MS less one: the spec asks for a positive integer. -/
opaque pollIntervalPred : Nat

/-- POLL_INTERVAL_MS, a positive integer (R7, D22). -/
def pollIntervalMs : Nat := pollIntervalPred + 1

/-- POLL_MARGIN_MS, a non-negative integer (R7, D22). -/
opaque pollMarginMs : Nat

/-- ALERT_POLL_INTERVAL_MS less one: the spec asks for a positive integer. -/
opaque alertPollIntervalPred : Nat

/-- ALERT_POLL_INTERVAL_MS, a positive integer (R7, D23). -/
def alertPollIntervalMs : Nat := alertPollIntervalPred + 1

/-! ### Free values: the draws that no queue of `Env` answers -/

/-- The bus's answer to a frame (R73, U8, U9). -/
opaque freeFrame : Nat → BusAnswer

/-- What the other agents do in a gap (R46, R106, R144). -/
opaque freeGap : Nat → List AgentStep

/-- Whether the line collaborator arms (R132, U20). -/
opaque freeArm : Nat → Bool

/-- CONT_OS_READ: what OS reads in Continuous mode (R104, U5). -/
opaque freeOsRead : Nat → Bool

end Config

end Sys2Proof
end

