-- ==== Sys2Proof/WellFormed.lean ====
section
/-! DEFINITION. Which instructions have an encoding: every enumeration index of a host command fits the one byte the
model's command format gives it (log entry 5). An index outside its domain but within the byte is well formed: the
command itself rejects it with ConfigError (R140). -/

namespace Sys2Proof

/-- An enumeration index fits its operand byte. -/
def indexFits (i : Nat) : Bool := i < 256

/-- Every enumeration index of the instruction fits its operand byte. -/
def Instr.wf : Instr → Bool
  | .init a => indexFits a
  | .deinit => true
  | .readRegister r => indexFits r
  | .writeRegister r _ => indexFits r
  | .buildConfig c g m d cm p l q _ =>
      indexFits c && indexFits g && indexFits m && indexFits d && indexFits cm && indexFits p && indexFits l && indexFits q
  | .decodeConfig _ => true
  | .scaleToVoltage _ g => indexFits g
  | .voltsToCode _ g => indexFits g
  | .startSingleShot c g => indexFits c && indexFits g
  | .pollUntilReady d => indexFits d
  | .readConversion g => indexFits g
  | .startContinuous c g d => indexFits c && indexFits g && indexFits d
  | .delay _ => true
  | .setThresholds _ _ => true
  | .enableComparator c g cm p l q =>
      indexFits c && indexFits g && indexFits cm && indexFits p && indexFits l && indexFits q
  | .armComparator c g cm p l q _ _ =>
      indexFits c && indexFits g && indexFits cm && indexFits p && indexFits l && indexFits q
  | .disableComparator => true
  | .armAlertLine => true
  | .disarmAlertLine => true
  | .clearAlertFlag => true
  | .waitForAlert _ g => indexFits g
  | .ptr _ _ => true
  | .wrConversion _ _ => true
  | .wrConfig _ _ => true
  | .wrLoThresh _ _ => true
  | .wrHiThresh _ _ => true
  | .rd _ => true

end Sys2Proof
end

