-- ==== Sys2Proof/Decode.lean ====
section
/-! DEFINITION. The three encoded layers' byte forms: bus addresses and pointer bytes (R51, R52), bus frames (R53, R54)
and host commands (R67). `decode` is total on any byte string and rejects by name; `encode` writes the bytes of a
well-formed instruction from the same tables. A byte string is what stands between START and STOP, or one host
command: its length is known (R54). The layout of host operands after the opcode byte is the model's (log entry 5):
an enumeration index or a Bool is one byte, `u16`, `i16` and `f64` are most significant byte first, and `int ≥ 0` is
base 128, least significant digit first, bit 7 set on every byte but the last. -/

namespace Sys2Proof

/-- Why a byte string is no instruction of the block. -/
inductive DecodeError
  /-- The string is empty. -/
  | emptyString
  /-- A first byte that is no opcode of R67 and no address byte `10010aaw` of R51. -/
  | unknownOpcode
  /-- Operand bytes of a host command are missing or left over. -/
  | operandBytes
  /-- A Bool operand byte other than 0 and 1. -/
  | notABool
  /-- An `int ≥ 0` operand that does not end, or that ends in a redundant zero digit. -/
  | notAnInteger
  /-- A pointer byte with bits 7:2 not zero (R70, R78). -/
  | reservedPointer
  /-- A write of 1, 3, or 5 or more bytes, or a read of other than 2 data bytes (R54, R78). -/
  | frameLength
  deriving DecidableEq, Repr

/-! ### Host opcodes (R67) -/

namespace Opcode

def init : Byte := 0x01#8
def deinit : Byte := 0x02#8
def readRegister : Byte := 0x10#8
def writeRegister : Byte := 0x11#8
def buildConfig : Byte := 0x20#8
def decodeConfig : Byte := 0x21#8
def scaleToVoltage : Byte := 0x22#8
def voltsToCode : Byte := 0x23#8
def startSingleShot : Byte := 0x30#8
def pollUntilReady : Byte := 0x31#8
def readConversion : Byte := 0x32#8
def startContinuous : Byte := 0x33#8
def delay : Byte := 0x34#8
def setThresholds : Byte := 0x40#8
def enableComparator : Byte := 0x41#8
def armComparator : Byte := 0x42#8
def disableComparator : Byte := 0x43#8
def armAlertLine : Byte := 0x44#8
def disarmAlertLine : Byte := 0x45#8
def clearAlertFlag : Byte := 0x46#8
def waitForAlert : Byte := 0x47#8

end Opcode

/-! ### Bus addresses and register pointers -/

/-- The strap index `aa` of the address byte (R51). -/
def Strap.code : Strap → BitVec 2
  | .gnd => 0b00#2
  | .vdd => 0b01#2
  | .sda => 0b10#2
  | .scl => 0b11#2

/-- The strap of an index `aa` (R51). -/
def Strap.ofCode (c : BitVec 2) : Strap :=
  match c.toNat with
  | 0 => .gnd
  | 1 => .vdd
  | 2 => .sda
  | _ => .scl

/-- ADDR_MAP: the 7-bit bus address of a strap, `10010aa` (R40, R51). -/
def Strap.addr (a : Strap) : Addr := 0b10010#5 ++ a.code

/-- The strap that answers at a bus address, if one does (R40). -/
def Strap.ofAddr (x : Addr) : Option Strap :=
  if x.extractLsb' 2 5 = 0b10010#5 then some (Strap.ofCode (x.extractLsb' 0 2)) else none

/-- The register pointer P (R20, R52). -/
def Reg.code : Reg → BitVec 2
  | .conversion => 0b00#2
  | .config => 0b01#2
  | .low => 0b10#2
  | .high => 0b11#2

/-- The register of a pointer P (R20). -/
def Reg.ofCode (c : BitVec 2) : Reg :=
  match c.toNat with
  | 0 => .conversion
  | 1 => .config
  | 2 => .low
  | _ => .high

/-- The register a bus write addresses (R20). -/
def WReg.toReg : WReg → Reg
  | .config => .config
  | .low => .low
  | .high => .high

/-- The address byte: address in bits 7:1, direction in bit 0 (R51). -/
def addressByte (x : Addr) (read : Bool) : Byte := x ++ BitVec.ofBool read

/-- The pointer byte: P in bits 1:0, bits 7:2 zero (R52). -/
def pointerByte (p : Reg) : Byte := 0b000000#6 ++ p.code

/-- The register of a pointer byte, if it is not reserved (R52, R70). -/
def Reg.ofPointerByte (b : Byte) : Option Reg :=
  if b.extractLsb' 2 6 = 0#6 then some (Reg.ofCode (b.extractLsb' 0 2)) else none

/-! ### Byte order (R42) -/

/-- The two bytes of a 16-bit value, most significant first (R42). -/
def wordBytes (v : Word) : List Byte := [v.extractLsb' 8 8, v.extractLsb' 0 8]

/-- The eight bytes of a binary64 value, most significant first (log entry 5). -/
def f64Bytes (v : F64) : List Byte :=
  [v.extractLsb' 56 8, v.extractLsb' 48 8, v.extractLsb' 40 8, v.extractLsb' 32 8,
   v.extractLsb' 24 8, v.extractLsb' 16 8, v.extractLsb' 8 8, v.extractLsb' 0 8]

/-- The 16-bit value of two bytes, first byte most significant (R42). -/
def joinWord (b1 b0 : Byte) : Word := b1 ++ b0

/-- The 16-bit value of the bytes of a read, in the order they are received: each byte pushes those before it up, so the
first of two is bits 15:8 (R42). -/
def joinBytes (bytes : List Byte) : Word := bytes.foldl (fun v b => v.extractLsb' 0 8 ++ b) 0#16

/-- The binary64 value of eight bytes, first byte most significant (log entry 5). -/
def joinF64 (b7 b6 b5 b4 b3 b2 b1 b0 : Byte) : F64 := b7 ++ b6 ++ b5 ++ b4 ++ b3 ++ b2 ++ b1 ++ b0

/-- The bus address a frame carries (R53). -/
def Frame.addr : Frame → Addr
  | .ptr a _ => a
  | .wr a _ _ => a
  | .rd a => a

/-- The bytes a frame puts on the wire that the controller sends: the whole frame, but for the two data bytes of RD,
which the device sends (R53). -/
def Frame.sent : Frame → List Byte
  | .ptr a p => [addressByte a false, pointerByte p]
  | .wr a r v => addressByte a false :: pointerByte r.toReg :: wordBytes v
  | .rd a => [addressByte a true]

/-! ### Non-negative integers (log entry 5) -/

/-- The digits of `n`, with enough `fuel` for them. -/
def natDigits : Nat → Nat → List Byte
  | 0, n => [BitVec.ofNat 8 n]
  | fuel + 1, n =>
    if n < 128 then [BitVec.ofNat 8 n] else BitVec.ofNat 8 (128 + n % 128) :: natDigits fuel (n / 128)

/-- The bytes of a non-negative integer. -/
def natBytes (n : Nat) : List Byte := natDigits n.log2 n

/-- Reads a non-negative integer and leaves the rest; `first` marks its first byte, the only one that may be zero. -/
def readNat (first : Bool) : List Byte → Option (Nat × List Byte)
  | [] => none
  | b :: rest =>
    if b.toNat < 128 then
      if b.toNat = 0 ∧ first = false then none else some (b.toNat, rest)
    else
      match readNat false rest with
      | none => none
      | some (hi, left) => some (b.toNat - 128 + 128 * hi, left)

/-- Reads a Bool operand byte. -/
def readBool (b : Byte) : Option Bool :=
  if b = 0#8 then some false else if b = 1#8 then some true else none

/-! ### Decoding -/

/-- A bus frame: `head` is an address byte `10010aaw`, `rest` the bytes after it (R53, R54, R70). The two data bytes of
RD are the device's, so the decoder does not read them. -/
def decodeFrame (head : Byte) (rest : List Byte) : Except DecodeError Instr :=
  let a := Strap.ofCode (head.extractLsb' 1 2)
  if head.getLsbD 0 then
    match rest with
    | [_, _] => .ok (.rd a)
    | _ => .error .frameLength
  else
    match rest with
    | [p] =>
      match Reg.ofPointerByte p with
      | none => .error .reservedPointer
      | some r => .ok (.ptr a r)
    | [p, b1, b0] =>
      match Reg.ofPointerByte p with
      | none => .error .reservedPointer
      | some .conversion => .ok (.wrConversion a (joinWord b1 b0))
      | some .config => .ok (.wrConfig a (joinWord b1 b0))
      | some .low => .ok (.wrLoThresh a (joinWord b1 b0))
      | some .high => .ok (.wrHiThresh a (joinWord b1 b0))
    | _ => .error .frameLength

/-- A host command: `op` is its opcode byte, `rest` its operand bytes (R67). -/
def decodeCommand (op : Byte) (rest : List Byte) : Except DecodeError Instr :=
  match op.toNat with
  | 0x01 => match rest with
    | [a] => .ok (.init a.toNat)
    | _ => .error .operandBytes
  | 0x02 => match rest with
    | [] => .ok .deinit
    | _ => .error .operandBytes
  | 0x10 => match rest with
    | [r] => .ok (.readRegister r.toNat)
    | _ => .error .operandBytes
  | 0x11 => match rest with
    | [r, v1, v0] => .ok (.writeRegister r.toNat (joinWord v1 v0))
    | _ => .error .operandBytes
  | 0x20 => match rest with
    | [c, g, m, d, cm, p, l, q, t] =>
      match readBool t with
      | none => .error .notABool
      | some t =>
        .ok (.buildConfig c.toNat g.toNat m.toNat d.toNat cm.toNat p.toNat l.toNat q.toNat t)
    | _ => .error .operandBytes
  | 0x21 => match rest with
    | [v1, v0] => .ok (.decodeConfig (joinWord v1 v0))
    | _ => .error .operandBytes
  | 0x22 => match rest with
    | [v1, v0, g] => .ok (.scaleToVoltage (joinWord v1 v0) g.toNat)
    | _ => .error .operandBytes
  | 0x23 => match rest with
    | [v7, v6, v5, v4, v3, v2, v1, v0, g] => .ok (.voltsToCode (joinF64 v7 v6 v5 v4 v3 v2 v1 v0) g.toNat)
    | _ => .error .operandBytes
  | 0x30 => match rest with
    | [c, g] => .ok (.startSingleShot c.toNat g.toNat)
    | _ => .error .operandBytes
  | 0x31 => match rest with
    | [d] => .ok (.pollUntilReady d.toNat)
    | _ => .error .operandBytes
  | 0x32 => match rest with
    | [g] => .ok (.readConversion g.toNat)
    | _ => .error .operandBytes
  | 0x33 => match rest with
    | [c, g, d] => .ok (.startContinuous c.toNat g.toNat d.toNat)
    | _ => .error .operandBytes
  | 0x34 => match readNat true rest with
    | none => .error .notAnInteger
    | some (ms, []) => .ok (.delay ms)
    | some (_, _ :: _) => .error .operandBytes
  | 0x40 => match rest with
    | [l1, l0, h1, h0] => .ok (.setThresholds (joinWord l1 l0) (joinWord h1 h0))
    | _ => .error .operandBytes
  | 0x41 => match rest with
    | [c, g, cm, p, l, q] => .ok (.enableComparator c.toNat g.toNat cm.toNat p.toNat l.toNat q.toNat)
    | _ => .error .operandBytes
  | 0x42 => match rest with
    | [c, g, cm, p, l, q, l7, l6, l5, l4, l3, l2, l1, l0, h7, h6, h5, h4, h3, h2, h1, h0] =>
      .ok (.armComparator c.toNat g.toNat cm.toNat p.toNat l.toNat q.toNat
        (joinF64 l7 l6 l5 l4 l3 l2 l1 l0) (joinF64 h7 h6 h5 h4 h3 h2 h1 h0))
    | _ => .error .operandBytes
  | 0x43 => match rest with
    | [] => .ok .disableComparator
    | _ => .error .operandBytes
  | 0x44 => match rest with
    | [] => .ok .armAlertLine
    | _ => .error .operandBytes
  | 0x45 => match rest with
    | [] => .ok .disarmAlertLine
    | _ => .error .operandBytes
  | 0x46 => match rest with
    | [] => .ok .clearAlertFlag
    | _ => .error .operandBytes
  | 0x47 => match readNat true rest with
    | none => .error .notAnInteger
    | some (k, [g]) => .ok (.waitForAlert k g.toNat)
    | some (_, _) => .error .operandBytes
  | _ => .error .unknownOpcode

/-- The instruction of one byte string: a bus frame if the first byte is an address byte `10010aaw`, a host command
otherwise (R51, R67, R70). -/
def decode : List Byte → Except DecodeError Instr
  | [] => .error .emptyString
  | head :: rest => if head.extractLsb' 3 5 = 0b10010#5 then decodeFrame head rest else decodeCommand head rest

/-! ### Encoding -/

/-- The operand byte of an enumeration index. -/
def indexByte (i : Nat) : Byte := BitVec.ofNat 8 i

/-- The operand byte of a Bool. -/
def boolByte (t : Bool) : Byte := if t then 1#8 else 0#8

/-- The bytes of an instruction (R53, R67). The two data bytes of RD, which the device sends, are written as zero. -/
def encode : Instr → List Byte
  | .init a => [Opcode.init, indexByte a]
  | .deinit => [Opcode.deinit]
  | .readRegister r => [Opcode.readRegister, indexByte r]
  | .writeRegister r v => Opcode.writeRegister :: indexByte r :: wordBytes v
  | .buildConfig c g m d cm p l q t =>
      [Opcode.buildConfig, indexByte c, indexByte g, indexByte m, indexByte d, indexByte cm, indexByte p, indexByte l,
       indexByte q, boolByte t]
  | .decodeConfig w => Opcode.decodeConfig :: wordBytes w
  | .scaleToVoltage raw g => Opcode.scaleToVoltage :: (wordBytes raw ++ [indexByte g])
  | .voltsToCode v g => Opcode.voltsToCode :: (f64Bytes v ++ [indexByte g])
  | .startSingleShot c g => [Opcode.startSingleShot, indexByte c, indexByte g]
  | .pollUntilReady d => [Opcode.pollUntilReady, indexByte d]
  | .readConversion g => [Opcode.readConversion, indexByte g]
  | .startContinuous c g d => [Opcode.startContinuous, indexByte c, indexByte g, indexByte d]
  | .delay ms => Opcode.delay :: natBytes ms
  | .setThresholds lo hi => Opcode.setThresholds :: (wordBytes lo ++ wordBytes hi)
  | .enableComparator c g cm p l q =>
      [Opcode.enableComparator, indexByte c, indexByte g, indexByte cm, indexByte p, indexByte l, indexByte q]
  | .armComparator c g cm p l q lo hi =>
      [Opcode.armComparator, indexByte c, indexByte g, indexByte cm, indexByte p, indexByte l, indexByte q]
        ++ (f64Bytes lo ++ f64Bytes hi)
  | .disableComparator => [Opcode.disableComparator]
  | .armAlertLine => [Opcode.armAlertLine]
  | .disarmAlertLine => [Opcode.disarmAlertLine]
  | .clearAlertFlag => [Opcode.clearAlertFlag]
  | .waitForAlert k g => Opcode.waitForAlert :: (natBytes k ++ [indexByte g])
  | .ptr a p => [addressByte a.addr false, pointerByte p]
  | .wrConversion a v => addressByte a.addr false :: pointerByte .conversion :: wordBytes v
  | .wrConfig a v => addressByte a.addr false :: pointerByte .config :: wordBytes v
  | .wrLoThresh a v => addressByte a.addr false :: pointerByte .low :: wordBytes v
  | .wrHiThresh a v => addressByte a.addr false :: pointerByte .high :: wordBytes v
  | .rd a => [addressByte a.addr true, 0#8, 0#8]

/-! ### The opcode table's numbering -/

/-- How many operand bytes follow a host opcode when every operand is zero. -/
def operandBytes (op : Nat) : Nat :=
  match op with
  | 0x01 => 1
  | 0x10 => 1
  | 0x11 => 3
  | 0x20 => 9
  | 0x21 => 2
  | 0x22 => 3
  | 0x23 => 9
  | 0x30 => 2
  | 0x31 => 1
  | 0x32 => 1
  | 0x33 => 3
  | 0x34 => 1
  | 0x40 => 4
  | 0x41 => 6
  | 0x42 => 22
  | 0x47 => 2
  | _ => 0

/-- The `n` low bytes of `w`, most significant first: the order in which they are sent. -/
def bytesMsbFirst : Nat → Nat → List Byte
  | 0, _ => []
  | n + 1, w => BitVec.ofNat 8 (w / 2 ^ (8 * n)) :: bytesMsbFirst n w

/-- The byte string of a row's word. spec/opcode_table.json numbers a frame as one word whose first transmitted byte is
the most significant; a host command's row covers the opcode byte alone, so its operands are zero bytes. -/
def tableBytes (nbits w : Nat) : List Byte :=
  if nbits = 8 then BitVec.ofNat 8 w :: List.replicate (operandBytes (w % 256)) 0#8
  else bytesMsbFirst (nbits / 8) w

/-- The instruction the decoder reads from a row's word. -/
def decodeTableWord (nbits w : Nat) : Option Instr :=
  match decode (tableBytes nbits w) with
  | .ok i => some i
  | .error _ => none

end Sys2Proof
end

