-- ==== Sys2Proof/Machine/State.lean ====
section
/-! DEFINITION. The state of the block as plain data: the devices on the bus (R20 to R30), the controller's handle
(R32 to R34), the interrupt line (R35), the host (R36, R68, R139), the answers still to come from the environment, and
the reset state (R38, R154 to R156). INVENTORY.md lists every field with its rule and reset value. -/

namespace Sys2Proof.Machine

/-! ### Device -/

/-- Converter state `dev.mode` (R27). -/
inductive ConvMode
  | powerDown | singleConverting | continuous
  deriving DecidableEq, Repr, Inhabited

/-- One device: its registers and hidden state (R20 to R30). -/
structure Device where
  /-- `dev.x[0]`, the Conversion register (R22). -/
  conversion : Word
  /-- `dev.cfg`, bits 14:0 of the Config register (R24). -/
  cfg        : BitVec 15
  /-- `dev.x[2]`, LowThreshold (R25). -/
  low        : Word
  /-- `dev.x[3]`, HighThreshold (R25). -/
  high       : Word
  /-- `dev.ptr`, the register pointer (R26). -/
  ptr        : Reg
  /-- `dev.mode` (R27). -/
  mode       : ConvMode
  /-- `dev.fresh`: a conversion has completed since the last Config write (R28). -/
  fresh      : Bool
  /-- `dev.cnt`, the comparator queue counter (R29). -/
  cnt        : Nat
  /-- `dev.alert`, the comparator output before polarity (R30). -/
  alert      : Bool
  deriving DecidableEq, Repr, Inhabited

/-- The four bus positions, one per strap, each empty or holding one device (R40, R151). -/
structure Devices where
  gnd : Option Device
  vdd : Option Device
  sda : Option Device
  scl : Option Device
  deriving DecidableEq, Repr, Inhabited

/-! ### Controller -/

/-- The conversion engine's state `h.engine` (R33). -/
inductive Engine
  | idle | configuring | converting | ready
  deriving DecidableEq, Repr, Inhabited

/-- The DeviceHandle (R32). -/
structure Handle where
  addr   : Addr
  cache  : Option Word
  gain   : Option Gain
  engine : Engine
  live   : Bool
  deriving DecidableEq, Repr, Inhabited

/-- The interrupt-line collaborator (R35). -/
structure Line where
  armed : Bool
  edge  : Bool
  flag  : Bool
  deriving DecidableEq, Repr, Inhabited

/-! ### Results of commands -/

/-- How a frame failed (R73). -/
inductive BusFailure
  | nak | timeout
  deriving DecidableEq, Repr, Inhabited

/-- The kind of the frame that failed (R138). -/
inductive FrameKind
  | ptr | wr | rd
  deriving DecidableEq, Repr, Inhabited

/-- What a ConfigError records: the operand that failed, or the inconsistency (R138, R140). -/
inductive Culprit
  | address | regId | channel | gain | mode | dataRate | compareMode | polarity | latch | queueDepth | volts
  | thresholdOrder | writeToConversion
  deriving DecidableEq, Repr, Inhabited

/-- The error kinds with the value each records (R138). -/
inductive HostError
  | transport (how : BusFailure) (frame : FrameKind) (reg : Reg)
  | config (what : Culprit)
  | conversionTimeout (rate : DataRate) (polls : Nat)
  | alertTimeout (timeoutSamples checks : Nat)
  | lineArm
  deriving DecidableEq, Repr, Inhabited

/-- What a successful command returns. -/
inductive Value
  /-- Nothing: the rule returns `()` or only changes state. -/
  | unit
  /-- `init`: the handle's address (R109). -/
  | handle (addr : Addr)
  /-- `readRegister`, `buildConfig` (R82, R87). -/
  | word (v : Word)
  /-- `decodeConfig` (R88). -/
  | fields (f : ConfigFields)
  /-- `scaleToVoltage` (R97). -/
  | volts (v : F64)
  /-- `voltsToCode` (R101): an `i16` pattern. -/
  | code (c : Word)
  /-- `pollUntilReady` (R113). -/
  | ready
  /-- `readConversion`, `waitForAlert`: the raw code and its voltage (R114, R136). -/
  | sample (raw : Word) (volts : F64)
  deriving DecidableEq, Repr, Inhabited

/-- The result of a command, or of a raw bus frame. -/
inductive Answer
  /-- The command completed. -/
  | done (v : Value)
  /-- The command raised `e`; an error of its unwind is recorded beside it (R139, R143). -/
  | failed (e : HostError) (beside : Option HostError)
  /-- A raw frame was acknowledged; a read frame returns the device's word (R74, log entry 13). -/
  | frameAck (data : Option Word)
  /-- A raw frame failed; a read's value is lost (R73, log entry 13). -/
  | frameFailed (how : BusFailure)
  deriving DecidableEq, Repr, Inhabited

/-- The result as the host receives it, with the host opcode of the command; a raw frame has none (R139). -/
structure Report where
  opcode : Option Byte
  answer : Answer
  deriving DecidableEq, Repr, Inhabited

/-! ### Host -/

/-- The host agent of one handle: its program, as the byte strings still to be issued, and what it has received
(R36, R68, R139). -/
structure HostAgent where
  /-- The commands not yet returned from, in order (R68). -/
  pending : List (List Byte)
  /-- The host-side index: how many commands have returned (R36). -/
  index   : Nat
  /-- The status the program ended with, once it has ended (R68). -/
  status  : Option Nat
  /-- The result of the last command that returned (R139). -/
  report  : Option Report
  /-- The running `delay` is blocked until the device holds a fresh sample (R13, R117, R159). -/
  holding : Bool
  deriving DecidableEq, Repr, Inhabited

/-- Why a command or a byte string has no meaning (R13, R141). Every refusal errs toward unprovable (safe).
A command of another session that is refused refuses the step (R13, D39). -/
inductive Refusal
  /-- An instruction whose arm in Dispatch has no meaning yet; raised by no arm now. Safe. -/
  | notModelled (mnemonic : String)
  /-- A command on a handle that is not live: raised by the commands whose rule says `else refuse(DeadHandle)`
  (R82, R83, R110, R117, R128, R132 to R134). Safe. -/
  | deadHandle
  /-- A command the engine's state does not allow, or a dead handle: raised by the commands whose rule says
  `else refuse(EngineBusy)` (R111, R114, R115, R129 to R131, R136). Safe. -/
  | engineBusy
  /-- `pollUntilReady` with no conversion running: `else refuse(NoConversion)` (R113). Safe. -/
  | noConversion
  /-- A raw write frame to the Conversion register (R77); raised by WR_CONVERSION. Safe. -/
  | writeToConversion
  /-- A byte string that is no command and no frame (R70, R78); raised by `step`. Safe. -/
  | undecodable (why : DecodeError)
  deriving DecidableEq, Repr, Inhabited

/-- The answer one controller step gives the command that takes it. -/
inductive Reply
  /-- A frame's end: how it failed, or the bytes the device sent, in the order sent (R73, R79). -/
  | bus (r : Except BusFailure (List Byte))
  /-- The bit a step that is no frame answers: whether the line armed, its flag, whether a delay still holds. -/
  | bit (b : Bool)
  deriving DecidableEq, Repr

/-- How far a session's command has come: the handle it began with, and the answers its controller steps have had. -/
structure Progress where
  start   : Handle
  replies : List Reply
  deriving DecidableEq, Repr

/-- Another thread of control: a handle, its interrupt line and its host, the command it is in the midst of, and the
refusal it has met (R6, R13, R151). -/
structure Session where
  handle  : Handle
  line    : Line
  host    : HostAgent
  busy    : Option Progress
  refused : Option Refusal
  deriving DecidableEq, Repr

/-! ### Environment: the model's own fields (log entries 2 and 16) -/

/-- The answers still to come from outside the controller, one queue per kind of draw. A queue that is empty answers
with a free value of Config applied to `drawn`. -/
structure Env where
  frames  : List BusAnswer
  gaps    : List (List AgentStep)
  arms    : List Bool
  osReads : List Bool
  drawn   : Nat
  deriving DecidableEq, Repr, Inhabited

/-- Who sent a frame: the running session's controller, or any other caller on the bus. -/
inductive Sender
  | controller | other
  deriving DecidableEq, Repr, Inhabited

/-- One frame as it crossed the bus: how it failed, if it did, and the data bytes the device sent in an acknowledged read,
first byte sent first (R42, R53). -/
structure Transfer where
  sender  : Sender
  frame   : Frame
  failure : Option BusFailure
  data    : List Byte
  deriving DecidableEq, Repr, Inhabited

/-! ### The state -/

/-- The bytes of a whole frame in transmission order: those the caller sends, then those the device sends (R53). -/
def Transfer.bytes (x : Transfer) : List Byte := x.frame.sent ++ x.data

/-- The whole state. `handle`, `line` and `host` are those of the running session, whose commands a step runs; `others`
are the further sessions, whose controller steps fall into its gaps (R46, R151). -/
structure State where
  devices : Devices
  handle  : Handle
  line    : Line
  host    : HostAgent
  others  : List Session
  env     : Env
  wire    : List Transfer
  deriving DecidableEq, Repr

/-- Why the machine stops with a fault: never. The spec's own faults are the errors a command returns (R138), which are
next states, so this type has no constructor. Safe: no behaviour of the block is lost in a fault. -/
inductive Fault
  deriving DecidableEq, Repr

/-- What an instruction answers. -/
abbrev Out := Host.Outcome State Fault Refusal

/-! ### Reset -/

/-- A device at power-on reset (R38, R154). -/
def Device.reset : Device where
  conversion := Config.devResetConv
  cfg        := Config.configDefault.extractLsb' 0 15
  low        := Config.devResetLo
  high       := Config.devResetHi
  ptr        := .conversion
  mode       := .powerDown
  fresh      := false
  cnt        := 0
  alert      := false

/-- A handle right after `init` at bus address `a` (R32, R109). -/
def Handle.create (a : Addr) : Handle where
  addr   := a
  cache  := none
  gain   := none
  engine := .idle
  live   := true

/-- Before `init` there is no handle: it is not live (R156). DESIGN CHOICE: its other fields (log entry 9). -/
def Handle.absent : Handle := { Handle.create 0#7 with live := false }

/-- The line right after `init` (R35, R109); before `init` as well (R156, log entry 9). -/
def Line.reset : Line where
  armed := false
  edge  := false
  flag  := false

/-- A host with no program loaded (log entry 6). -/
def HostAgent.reset : HostAgent where
  pending := []
  index   := 0
  status  := none
  report  := none
  holding := false

/-- Nothing is known of the environment's answers (log entry 2). -/
def Env.reset : Env where
  frames  := []
  gaps    := []
  arms    := []
  osReads := []
  drawn   := 0

/-- The machine right after reset: every device at power-on reset, no handle, the line disarmed (R38, R154 to R156).
DESIGN CHOICE: all four bus positions are populated (log entry 3). -/
def State.reset : State where
  devices := { gnd := some Device.reset, vdd := some Device.reset, sda := some Device.reset, scl := some Device.reset }
  handle  := Handle.absent
  line    := Line.reset
  host    := HostAgent.reset
  others  := []
  env     := Env.reset
  wire    := []

end Sys2Proof.Machine
end

