-- ==== Sys2Proof/Machine/Operands.lean ====
section
/-! DEFINITION. Operands: the code tables of the Config word (R55 to R62), its encoder and decoder (R87, R88), the
checks of enumeration indices at the command boundary (R66, R140), the gain and rate tables (R57, R59, R95), the bounds
worked out from them (R112, R116, R135), and the conversions between codes and volts (R97, R101). -/

namespace Sys2Proof

/-! ### Code tables -/

/-- MUX code (R56). -/
def Channel.code : Channel → BitVec 3
  | .ain0Ain1 => 0b000#3
  | .ain0Ain3 => 0b001#3
  | .ain1Ain3 => 0b010#3
  | .ain2Ain3 => 0b011#3
  | .ain0Gnd => 0b100#3
  | .ain1Gnd => 0b101#3
  | .ain2Gnd => 0b110#3
  | .ain3Gnd => 0b111#3

/-- The channel of a MUX code (R56). -/
def Channel.ofCode (c : BitVec 3) : Channel :=
  match c.toNat with
  | 0 => .ain0Ain1
  | 1 => .ain0Ain3
  | 2 => .ain1Ain3
  | 3 => .ain2Ain3
  | 4 => .ain0Gnd
  | 5 => .ain1Gnd
  | 6 => .ain2Gnd
  | _ => .ain3Gnd

/-- An analog input or ground (R56). -/
inductive Pin
  | ain0 | ain1 | ain2 | ain3 | gnd
  deriving DecidableEq, Repr

/-- The positive and the negative input of a channel: a conversion measures their difference (R56, R102). -/
def Channel.pins : Channel → Pin × Pin
  | .ain0Ain1 => (.ain0, .ain1)
  | .ain0Ain3 => (.ain0, .ain3)
  | .ain1Ain3 => (.ain1, .ain3)
  | .ain2Ain3 => (.ain2, .ain3)
  | .ain0Gnd => (.ain0, .gnd)
  | .ain1Gnd => (.ain1, .gnd)
  | .ain2Gnd => (.ain2, .gnd)
  | .ain3Gnd => (.ain3, .gnd)

/-- PGA code the encoder emits (R57). -/
def Gain.code : Gain → BitVec 3
  | .fs6144 => 0b000#3
  | .fs4096 => 0b001#3
  | .fs2048 => 0b010#3
  | .fs1024 => 0b011#3
  | .fs0512 => 0b100#3
  | .fs0256 => 0b101#3

/-- The gain of a PGA code; 0b110 and 0b111 are aliases of FS_0_256 (R57, R88). -/
def Gain.ofCode (c : BitVec 3) : Gain :=
  match c.toNat with
  | 0 => .fs6144
  | 1 => .fs4096
  | 2 => .fs2048
  | 3 => .fs1024
  | 4 => .fs0512
  | _ => .fs0256

/-- MODE code (R58). -/
def Mode.code : Mode → Bool
  | .continuous => false
  | .singleShot => true

/-- DR code (R59). -/
def DataRate.code : DataRate → BitVec 3
  | .sps8 => 0b000#3
  | .sps16 => 0b001#3
  | .sps32 => 0b010#3
  | .sps64 => 0b011#3
  | .sps128 => 0b100#3
  | .sps250 => 0b101#3
  | .sps475 => 0b110#3
  | .sps860 => 0b111#3

/-- The data rate of a DR code (R59). -/
def DataRate.ofCode (c : BitVec 3) : DataRate :=
  match c.toNat with
  | 0 => .sps8
  | 1 => .sps16
  | 2 => .sps32
  | 3 => .sps64
  | 4 => .sps128
  | 5 => .sps250
  | 6 => .sps475
  | _ => .sps860

/-- The rate in samples per second (R59). -/
def DataRate.sps : DataRate → Nat
  | .sps8 => 8
  | .sps16 => 16
  | .sps32 => 32
  | .sps64 => 64
  | .sps128 => 128
  | .sps250 => 250
  | .sps475 => 475
  | .sps860 => 860

/-- COMP_MODE code (R60). -/
def CompareMode.code : CompareMode → Bool
  | .traditional => false
  | .window => true

/-- COMP_POL code (R60). -/
def Polarity.code : Polarity → Bool
  | .activeLow => false
  | .activeHigh => true

/-- COMP_LAT code (R60). -/
def Latch.code : Latch → Bool
  | .nonLatching => false
  | .latching => true

/-- COMP_QUE code (R61). -/
def Queue.code : Queue → BitVec 2
  | .one => 0b00#2
  | .two => 0b01#2
  | .four => 0b10#2
  | .disabled => 0b11#2

/-- The queue setting of a COMP_QUE code (R61). -/
def Queue.ofCode (c : BitVec 2) : Queue :=
  match c.toNat with
  | 0 => .one
  | 1 => .two
  | 2 => .four
  | _ => .disabled

/-! ### Address and register indices -/

/-- Address index: 0 GND, 1 VDD, 2 SDA, 3 SCL (R66). -/
def Strap.ofIndex : Nat → Option Strap
  | 0 => some .gnd
  | 1 => some .vdd
  | 2 => some .sda
  | 3 => some .scl
  | _ => none

/-- RegId index: the pointer (R66). -/
def Reg.ofIndex : Nat → Option Reg
  | 0 => some .conversion
  | 1 => some .config
  | 2 => some .low
  | 3 => some .high
  | _ => none

end Sys2Proof

namespace Sys2Proof.Machine

/-! ### The Config word -/

/-- The word of nine fields, most significant field first (R55, R87). -/
def buildWord (f : ConfigFields) : Word :=
  BitVec.ofBool f.trigger ++ f.channel.code ++ f.gain.code ++ BitVec.ofBool f.mode.code ++ f.dataRate.code
    ++ BitVec.ofBool f.compareMode.code ++ BitVec.ofBool f.polarity.code ++ BitVec.ofBool f.latch.code ++ f.queue.code

/-- The nine fields of a word; every word decodes (R88). -/
def fieldsOf (w : Word) : ConfigFields where
  trigger     := w.getLsbD 15
  channel     := Channel.ofCode (w.extractLsb' 12 3)
  gain        := Gain.ofCode (w.extractLsb' 9 3)
  mode        := if w.getLsbD 8 then .singleShot else .continuous
  dataRate    := DataRate.ofCode (w.extractLsb' 5 3)
  compareMode := if w.getLsbD 4 then .window else .traditional
  polarity    := if w.getLsbD 3 then .activeHigh else .activeLow
  latch       := if w.getLsbD 2 then .latching else .nonLatching
  queue       := Queue.ofCode (w.extractLsb' 0 2)

/-- `base(h)`: the word a command's own fields are merged into (R90). -/
def Handle.base (h : Handle) : Word := h.cache.getD Config.configDefault

/-! ### Checks at the command boundary -/

/-- ConfigError unless the check gave a value (R140). -/
def orCulprit {α : Type} (what : Culprit) : Option α → Except Culprit α
  | some x => .ok x
  | none => .error what

/-- Channel index 0 to 7 (R66). -/
def checkChannel (i : Nat) : Except Culprit Channel :=
  orCulprit .channel (if i < 8 then some (Channel.ofCode (BitVec.ofNat 3 i)) else none)

/-- Gain index 0 to 5; 6 and 7 are not legal at the boundary (R66). -/
def checkGain (i : Nat) : Except Culprit Gain :=
  orCulprit .gain (if i < 6 then some (Gain.ofCode (BitVec.ofNat 3 i)) else none)

/-- Mode index: 0 Continuous, 1 SingleShot (R66). -/
def checkMode : Nat → Except Culprit Mode
  | 0 => .ok .continuous
  | 1 => .ok .singleShot
  | _ => .error .mode

/-- DataRate index 0 to 7 (R66). -/
def checkDataRate (i : Nat) : Except Culprit DataRate :=
  orCulprit .dataRate (if i < 8 then some (DataRate.ofCode (BitVec.ofNat 3 i)) else none)

/-- CompareMode index: 0 Traditional, 1 Window (R66, C4). -/
def checkCompareMode : Nat → Except Culprit CompareMode
  | 0 => .ok .traditional
  | 1 => .ok .window
  | _ => .error .compareMode

/-- Polarity index: 0 ActiveLow, 1 ActiveHigh (R66). -/
def checkPolarity : Nat → Except Culprit Polarity
  | 0 => .ok .activeLow
  | 1 => .ok .activeHigh
  | _ => .error .polarity

/-- Latch index: 0 NonLatching, 1 Latching (R66). -/
def checkLatch : Nat → Except Culprit Latch
  | 0 => .ok .nonLatching
  | 1 => .ok .latching
  | _ => .error .latch

/-- QueueDepth of a comparator that is to be enabled: 1, 2 or 4 (R129, R140). -/
def checkDepth : Nat → Except Culprit Queue
  | 1 => .ok .one
  | 2 => .ok .two
  | 4 => .ok .four
  | _ => .error .queueDepth

/-- QueueDepth of `buildConfig`: 0 means Disabled as well (R66, R140). -/
def checkDepthOrDisabled : Nat → Except Culprit Queue
  | 0 => .ok .disabled
  | n => checkDepth n

/-- The operands of `buildConfig`, checked in operand order (R87, R143). -/
def checkFields (channel gain mode dataRate compareMode polarity latch queueDepth : Nat) (trigger : Bool) :
    Except Culprit ConfigFields := do
  let channel ← checkChannel channel
  let gain ← checkGain gain
  let mode ← checkMode mode
  let dataRate ← checkDataRate dataRate
  let compareMode ← checkCompareMode compareMode
  let polarity ← checkPolarity polarity
  let latch ← checkLatch latch
  let queue ← checkDepthOrDisabled queueDepth
  return { trigger, channel, gain, mode, dataRate, compareMode, polarity, latch, queue }

/-- The checked operands of `enableComparator` (R129). -/
structure CompareArgs where
  channel     : Channel
  gain        : Gain
  compareMode : CompareMode
  polarity    : Polarity
  latch       : Latch
  queue       : Queue
  deriving DecidableEq, Repr

/-- The operands of `enableComparator`, checked in operand order (R129, R143). -/
def checkCompareArgs (channel gain compareMode polarity latch queueDepth : Nat) : Except Culprit CompareArgs := do
  let channel ← checkChannel channel
  let gain ← checkGain gain
  let compareMode ← checkCompareMode compareMode
  let polarity ← checkPolarity polarity
  let latch ← checkLatch latch
  let queue ← checkDepth queueDepth
  return { channel, gain, compareMode, polarity, latch, queue }

/-! ### The words commands write (R86, R91) -/

/-- `startSingleShot`: OS, MUX, PGA and MODE = SingleShot; the rest is kept (R91). -/
def singleShotWord (base : Word) (channel : Channel) (gain : Gain) : Word :=
  buildWord { fieldsOf base with trigger := true, channel, gain, mode := .singleShot }

/-- `startContinuous`: MUX, PGA, MODE = Continuous and DR; OS = 0 (R86, R91). -/
def continuousWord (base : Word) (channel : Channel) (gain : Gain) (dataRate : DataRate) : Word :=
  buildWord { fieldsOf base with trigger := false, channel, gain, mode := .continuous, dataRate }

/-- `enableComparator`: MUX, PGA and the comparator fields; OS = 0 (R86, R91). -/
def compareWord (base : Word) (c : CompareArgs) : Word :=
  buildWord { fieldsOf base with
    trigger := false, channel := c.channel, gain := c.gain, compareMode := c.compareMode, polarity := c.polarity,
    latch := c.latch, queue := c.queue }

/-- `disableComparator`: COMP_QUE = 0b11; OS = 0 (R86, R91). -/
def disabledWord (base : Word) : Word :=
  buildWord { fieldsOf base with trigger := false, queue := .disabled }

/-! ### Bounds (R14, R112, R116, R135) -/

/-- `ceil_div`: the least `q` with `q · b ≥ a`, for positive `b` (R14). -/
def ceilDiv (a b : Nat) : Nat := (a + b - 1) / b

/-- `maxPolls` for given values of POLL_MARGIN_MS and POLL_INTERVAL_MS (R112). -/
def maxPollsFor (margin interval : Nat) (r : DataRate) : Nat := 1 + ceilDiv (ceilDiv 1000 r.sps + margin) interval

/-- `maxPolls` (R112). -/
def maxPolls (r : DataRate) : Nat := maxPollsFor Config.pollMarginMs Config.pollIntervalMs r

/-- `settle_ms`: the settling delay of a data rate (R116, R170). -/
def settleMs (r : DataRate) : Nat := ceilDiv 1000 r.sps

/-- `alertPolls` for a given value of ALERT_POLL_INTERVAL_MS (R135). -/
def alertPollsFor (interval k : Nat) (r : DataRate) : Nat := 1 + ceilDiv (k * 1000) (r.sps * interval)

/-- `alertPolls` (R135). -/
def alertPolls (k : Nat) (r : DataRate) : Nat := alertPollsFor Config.alertPollIntervalMs k r

/-- The cached data rate: the DR field of `base(h)` (R135). -/
def Handle.dataRate (h : Handle) : DataRate := (fieldsOf h.base).dataRate

/-! ### Codes and volts -/

/-- `fullScale`: the binary64 value nearest the decimal full scale (R95). -/
def fullScale : Gain → F64
  | .fs6144 => 0x40189374BC6A7EFA#64
  | .fs4096 => 0x4010624DD2F1A9FC#64
  | .fs2048 => 0x4000624DD2F1A9FC#64
  | .fs1024 => 0x3FF0624DD2F1A9FC#64
  | .fs0512 => 0x3FE0624DD2F1A9FC#64
  | .fs0256 => 0x3FD0624DD2F1A9FC#64

/-- The binary64 value 32768.0. -/
def f64_32768 : F64 := 0x40E0000000000000#64

/-- The LSB of a gain in volts (R96). -/
def lsbVolts (g : Gain) : F64 := Fp.div (fullScale g) f64_32768

/-- A raw code in volts: `(f64(raw) ⊗ fullScale(gain)) ⊘ 32768.0` (R97). -/
def rawToVolts (raw : Word) (g : Gain) : F64 := Fp.div (Fp.mul (Fp.ofInt (sext16 raw)) (fullScale g)) f64_32768

/-- `clamp` (R14). -/
def clampInt (lo hi n : Int) : Int := min hi (max lo n)

/-- The nearest code of a quotient, clamped to the `i16` range (R101). A quotient that overflowed to an infinity
saturates like every voltage beyond the range (log entry 15). -/
def codeOfQuotient (q : F64) : Word :=
  if Fp.isInf q then (if Fp.sign q then 0x8000#16 else 0x7FFF#16)
  else BitVec.ofInt 16 (clampInt (-32768) 32767 (Fp.roundHalfAway q))

/-- Finite volts as a code: `clamp(−32768, 32767, round_half_away((volts ⊗ 32768.0) ⊘ fullScale(gain)))` (R101). -/
def voltsCode (v : F64) (g : Gain) : Word := codeOfQuotient (Fp.div (Fp.mul v f64_32768) (fullScale g))

/-- `voltsToCode` with its check of the voltage: NaN and the infinities are a ConfigError (R101, R140). -/
def checkVolts (v : F64) (g : Gain) : Except Culprit Word :=
  if Fp.isFinite v then .ok (voltsCode v g) else .error .volts

/-- The idealised transfer of R102: the code of a finite pair voltage. No step of the machine uses it; a conversion's
sample is a draw (R106). -/
def idealSample (pairVolts : F64) (g : Gain) : Word := voltsCode pairVolts g

end Sys2Proof.Machine
end

