-- ==== Sys2Proof/Machine/Flags.lean ====
section
/-! DEFINITION. The block's flags: what the OS bit reads (R104), the comparator's predicates, queue and output (R119 to
R124), the alert pin's level (R31), and the converter's `mode` and `fresh` (R105, R106). All are functions of one
device. -/

namespace Sys2Proof.Machine

/-! ### Fields of the stored Config word (R23, R24) -/

/-- COMP_QUE, `dev.cfg[1:0]`. -/
def Device.compQue (d : Device) : BitVec 2 := d.cfg.extractLsb' 0 2

/-- COMP_LAT = 1, `dev.cfg[2]`. -/
def Device.latching (d : Device) : Bool := d.cfg.getLsbD 2

/-- COMP_POL = 1, `dev.cfg[3]`. -/
def Device.activeHigh (d : Device) : Bool := d.cfg.getLsbD 3

/-- COMP_MODE = 1, `dev.cfg[4]`. -/
def Device.window (d : Device) : Bool := d.cfg.getLsbD 4

/-- MODE = 1 (single-shot), `dev.cfg[8]`. -/
def Device.singleShot (d : Device) : Bool := d.cfg.getLsbD 8

/-! ### The OS bit (R104) -/

/-- `os_read(dev.mode)`; `none` stands for the draw CONT_OS_READ (R104). -/
def osRead : ConvMode → Option Bool
  | .powerDown => some true
  | .singleConverting => some false
  | .continuous => none

/-! ### Comparator predicates (R119, R120, R122) -/

/-- `above(s)`: the sample is above HighThreshold, as signed integers (R119). -/
def Device.above (d : Device) (s : Word) : Bool := sext16 d.high < sext16 s

/-- `below(s)`: the sample is below LowThreshold, as signed integers (R119). -/
def Device.below (d : Device) (s : Word) : Bool := sext16 s < sext16 d.low

/-- `trip(s)` (R119). -/
def Device.trips (d : Device) (s : Word) : Bool := if d.window then d.above s || d.below s else d.above s

/-- `clear(s)` (R119). -/
def Device.clears (d : Device) (s : Word) : Bool :=
  if d.window then sext16 d.low ≤ sext16 s && sext16 s ≤ sext16 d.high else d.below s

/-- `depth(code)`; `none` where the comparator is disabled (R61, R120). -/
def depthOf (c : BitVec 2) : Option Nat :=
  match Queue.ofCode c with
  | .one => some 1
  | .two => some 2
  | .four => some 4
  | .disabled => none

/-- The active queue depth, `depth(dev.cfg[1:0])` (R120). -/
def Device.depth (d : Device) : Option Nat := depthOf d.compQue

/-- `asserted() = (dev.cfg[1:0] ≠ 0b11) and dev.alert` (R122). -/
def Device.asserted (d : Device) : Bool := d.compQue != 0b11#2 && d.alert

/-- The conversion-ready threshold combination: HighThreshold bit 15 = 1 and LowThreshold bit 15 = 0 (R121, R169). -/
def Device.readyCombination (d : Device) : Bool := Config.rdyCombinationIsDraw && d.high.msb && !d.low.msb

/-! ### Comparator updates (R121, R123, R124) -/

/-- `ComparatorOnConversion(s)` but for its edge detection, which is the caller's (R121). `alertDraw` and `cntDraw` are
the draws of the conversion-ready combination; the counter's draw is taken in `{0 .. depth}`.
DEDUCED (log entry 28): a Traditional sample that is both above and below, which LowThreshold > HighThreshold allows, is
a trip and no clear, as R121's note and R167 say of it; R121's pseudocode alone would clear a non-latching alert there
while the count is short of the depth. -/
def Device.compareSample (d : Device) (s : Word) (alertDraw : Bool) (cntDraw : Nat) : Device :=
  match d.depth with
  | none => { d with cnt := 0, alert := false }
  | some n =>
    if d.readyCombination then { d with alert := alertDraw, cnt := cntDraw % (n + 1) }
    else
      let cnt := if d.trips s then min (d.cnt + 1) n else 0
      let alert := if cnt = n then true else if !d.latching && !d.trips s && d.clears s then false else d.alert
      { d with cnt, alert }

/-- `LatchClearOnRead()`, run inside every read of the Conversion register (R123). -/
def Device.latchClearOnRead (d : Device) : Device := { d with alert := if d.latching then false else d.alert }

/-- `ComparatorOnConfigWrite(v)` (R124). -/
def Device.comparatorOnConfigWrite (d : Device) (v : Word) : Device :=
  if Config.cmpResetOnConfigWrite || v.extractLsb' 0 2 == 0b11#2 then { d with cnt := 0, alert := false } else d

/-! ### The alert pin (R31) -/

/-- A pin level. -/
inductive PinLevel
  | highZ | high | low
  deriving DecidableEq, Repr

/-- The ALERT pin's level, a function of state (R31). -/
def Device.pin (d : Device) : PinLevel :=
  if d.compQue = 0b11#2 then .highZ else if d.alert = d.activeHigh then .high else .low

/-! ### Converter updates (R105, R106) -/

/-- `dev.mode` after a Config write of `v` (R105). -/
def modeAfterWrite (v : Word) (m : ConvMode) : ConvMode :=
  if !v.getLsbD 8 then .continuous
  else
    match m with
    | .continuous => .singleConverting
    | .powerDown => if v.getLsbD 15 then .singleConverting else .powerDown
    | .singleConverting => .singleConverting

/-- `ConverterOnConfigWrite(v)` (R105). -/
def Device.converterOnConfigWrite (d : Device) (v : Word) : Device :=
  { d with fresh := false, mode := modeAfterWrite v d.mode }

/-- The conversion-complete step of R106 is enabled (SingleConverting or Continuous). -/
def Device.converting (d : Device) : Bool := d.mode != .powerDown

/-- `ConvComplete` with sample `s`, but for the edge detection (R106). -/
def Device.complete (d : Device) (s : Word) (alertDraw : Bool) (cntDraw : Nat) : Device :=
  let d := { d with conversion := s, fresh := true }.compareSample s alertDraw cntDraw
  { d with mode := if d.mode = .singleConverting then .powerDown else d.mode }

end Sys2Proof.Machine
end

