-- ==== Sys2Proof/Machine/Ops.lean ====
section
/-! DEFINITION. The shared operations: register access inside a device (R75, R76), a frame's effect (R74), the draws,
one bus frame (R73), the controller's steps on a handle, its line and the bus (R79, R80, R92, R132, R136), and how a
command returns or raises (R139, R145). -/

namespace Sys2Proof.Machine

/-! ### Inside a device -/

/-- `dev.x[p] <- v` for a register a bus write may address: `DevWrite(p, v)` (R76). -/
def Device.write (d : Device) (r : WReg) (v : Word) : Device :=
  match r with
  | .config => (({ d with cfg := v.extractLsb' 0 15 }).converterOnConfigWrite v).comparatorOnConfigWrite v
  | .low => { d with low := v }
  | .high => { d with high := v }

/-- The stored value of register `p`, where `os` is what the OS bit reads: the value of `DevRead(p)` (R75). -/
def Device.value (d : Device) (os : Bool) : Reg → Word
  | .conversion => d.conversion
  | .config => BitVec.ofBool os ++ d.cfg
  | .low => d.low
  | .high => d.high

/-- The side effect of `DevRead(dev.ptr)`: a Conversion read clears a latched alert (R45, R75, R123). -/
def Device.afterRead (d : Device) : Device := if d.ptr = .conversion then d.latchClearOnRead else d

/-- A frame's full effect on the device it addresses (R74). -/
def Device.deliver (d : Device) : Frame → Device
  | .ptr _ p => { d with ptr := p }
  | .wr _ r v => { d with ptr := r.toReg }.write r v
  | .rd _ => d.afterRead

/-! ### The bus positions -/

/-- The device at a strap, if the position is populated. -/
def Devices.get (ds : Devices) : Strap → Option Device
  | .gnd => ds.gnd
  | .vdd => ds.vdd
  | .sda => ds.sda
  | .scl => ds.scl

/-- Puts a device at a strap. -/
def Devices.set (ds : Devices) (a : Strap) (d : Option Device) : Devices :=
  match a with
  | .gnd => { ds with gnd := d }
  | .vdd => { ds with vdd := d }
  | .sda => { ds with sda := d }
  | .scl => { ds with scl := d }

/-- The device that answers at a bus address, if there is one (R40, R74). -/
def Devices.at (ds : Devices) (x : Addr) : Option Device := (Strap.ofAddr x).bind ds.get

/-- A frame's full effect on the bus: only the device whose strap address it carries changes (R74). -/
def Devices.deliver (ds : Devices) (f : Frame) : Devices :=
  match Strap.ofAddr f.addr with
  | none => ds
  | some a => ds.set a ((ds.get a).map fun d => d.deliver f)

/-! ### Draws (R13, log entry 2) -/

/-- The first answer of a queue, or a free value once the queue is empty; the rest of the queue, and the counter. -/
def draw {α : Type} (free : Nat → α) (drawn : Nat) : List α → α × List α × Nat
  | x :: xs => (x, xs, drawn)
  | [] => (free drawn, [], drawn + 1)

/-- The bus's answer to the next frame (R73). -/
def Env.nextFrame (e : Env) : BusAnswer × Env :=
  let r := draw Config.freeFrame e.drawn e.frames
  (r.1, { e with frames := r.2.1, drawn := r.2.2 })

/-- What the other agents do in the next gap (R46). -/
def Env.nextGap (e : Env) : List AgentStep × Env :=
  let r := draw Config.freeGap e.drawn e.gaps
  (r.1, { e with gaps := r.2.1, drawn := r.2.2 })

/-- Whether the line collaborator arms (R132). -/
def Env.nextArm (e : Env) : Bool × Env :=
  let r := draw Config.freeArm e.drawn e.arms
  (r.1, { e with arms := r.2.1, drawn := r.2.2 })

/-- CONT_OS_READ (R104). -/
def Env.nextOsRead (e : Env) : Bool × Env :=
  let r := draw Config.freeOsRead e.drawn e.osReads
  (r.1, { e with osReads := r.2.1, drawn := r.2.2 })

/-! ### One bus frame (R73) -/

/-- Where no device answers at the address, no frame is acknowledged: an acknowledging answer is a Nak (R109, log entry
4). -/
def unheard : BusAnswer → BusFailure
  | .ack => .nak
  | .nak _ => .nak
  | .timeout _ => .timeout

/-- The value a read frame takes from the device, where `os` is what OS reads in Continuous mode (R75, R104). -/
def Device.readValue (d : Device) (os : Bool) : Word := d.value ((osRead d.mode).getD os) d.ptr

/-- The data bytes the device sends in an acknowledged frame: those of a read, bits 15:8 first (R42, R53). -/
def Device.reply (d : Device) (os : Bool) : Frame → List Byte
  | .ptr _ _ => []
  | .wr _ _ _ => []
  | .rd _ => wordBytes (d.readValue os)

/-- `BusTx`: one frame, one atomic step. On Ack its full effect has happened and the device's data bytes come back;
after a Nak or a Timeout the device has taken no effect or the full effect, never a part of one, and the data are lost
(R73, R74). -/
def busTx (ds : Devices) (f : Frame) (w : Draws) : Except BusFailure (List Byte) × Devices :=
  match ds.at f.addr with
  | none => (.error (unheard w.bus), ds)
  | some d =>
    match w.bus with
    | .ack => (.ok (d.reply w.os f), ds.deliver f)
    | .nak took => (.error .nak, if took then ds.deliver f else ds)
    | .timeout took => (.error .timeout, if took then ds.deliver f else ds)

/-- A frame as it is logged. -/
def transferOf (who : Sender) (f : Frame) : Except BusFailure (List Byte) → Transfer
  | .ok bytes => { sender := who, frame := f, failure := none, data := bytes }
  | .error how => { sender := who, frame := f, failure := some how, data := [] }

/-- The frame reads the OS bit of a device in Continuous mode, so that its value is a draw (R104). -/
def readsFreeOs (ds : Devices) : Frame → Bool
  | .ptr _ _ => false
  | .wr _ _ _ => false
  | .rd x =>
    match ds.at x with
    | none => false
    | some d => d.mode = .continuous && d.ptr = .config

/-- The draws of one frame of the running session: the bus's answer and, where the frame is acknowledged and reads a
free OS bit, CONT_OS_READ (R73, R104). -/
def Env.frameDraws (e : Env) (ds : Devices) (f : Frame) : Draws × Env :=
  let (bus, e) := e.nextFrame
  if bus = .ack && readsFreeOs ds f then
    let (os, e) := e.nextOsRead
    ({ bus, os, arms := false }, e)
  else ({ bus, os := false, arms := false }, e)

/-! ### Handle and line (R32 to R35, R92, R108, R126, R127) -/

/-- The engine is Idle or Ready: a new acquisition command is allowed (R108). -/
def Engine.free (e : Engine) : Bool := e = .idle || e = .ready

/-- `CommitConfig(v)` (R92). -/
def Handle.commit (h : Handle) (v : Word) : Handle := { h with cache := some v, gain := some (fieldsOf v).gain }

/-- `h.engine <- e`. -/
def Handle.setEngine (h : Handle) (e : Engine) : Handle := { h with engine := e }

/-- The handle once its Config write of `v` has ended, `CommitConfig` on Ack only (R92). Where the command takes the
engine through Configuring, it rests in `after` on Ack and in Idle otherwise (R33, R108).
DESIGN CHOICE (log entry 30): no rule says which controller step carries `h.engine <- Configuring`; here it is the step
of the Config write, which leaves Configuring again, so no gap shows it. -/
def Handle.afterConfigWrite (h : Handle) (v : Word) (after : Option Engine) (r : Except BusFailure (List Byte)) : Handle :=
  match r, after with
  | .ok _, none => h.commit v
  | .ok _, some e => ((h.setEngine .configuring).commit v).setEngine e
  | .error _, none => h
  | .error _, some _ => (h.setEngine .configuring).setEngine .idle

/-- The interrupt-line step, enabled when `line.edge and line.armed` (R127). -/
def Line.step (l : Line) : Line := if l.edge && l.armed then { l with flag := true, edge := false } else l

/-- An asserting edge on a line's alert pin is captured while the line is armed (R126). -/
def Line.capture (l : Line) : Line := if l.armed then { l with edge := true } else l

/-- A line watches the alert pin of the device at its handle's bus address (R126, log entry 8). -/
def captureFor (a : Strap) (h : Handle) (l : Line) : Line := if h.addr = a.addr then l.capture else l

/-! ### Controller steps -/

/-- One atomic step of the controller on behalf of a command. -/
inductive Action
  /-- `BusTx` of a PTR or WR frame, or of an RD frame, that is no Config write of a handle (R73, R79, R80). -/
  | tx (f : Frame)
  /-- `MemWrite(1, 2, v)` with `CommitConfig(v)` on Ack; `after` is the engine of `Handle.afterConfigWrite` (R92, R108). -/
  | config (v : Word) (after : Option Engine)
  /-- The line collaborator's draw: on Ok the line is armed (R132). -/
  | arm
  /-- A look at `line.flag` (R48, R136). -/
  | look
  /-- `line.flag <- false` (R48, R134, R136). -/
  | clearFlag
  /-- Whether a delay must still wait: the handle's device holds no fresh sample, and is converting or the delay has
  already `begun` to hold (R117, R159). -/
  | waits (begun : Bool)
  deriving DecidableEq, Repr

/-- What one controller step leaves. -/
structure Effect where
  reply   : Reply
  handle  : Handle
  line    : Line
  devices : Devices
  sent    : List Transfer
  deriving DecidableEq, Repr

/-- The handle's device holds no fresh sample, and is converting unless the delay has `begun` to hold (R117). -/
def stillWaits (ds : Devices) (h : Handle) (begun : Bool) : Bool :=
  match ds.at h.addr with
  | none => false
  | some d => (begun || d.converting) && !d.fresh

/-- One controller step of the session with handle `h` and line `l`, whatever session that is (R151). -/
def perform (who : Sender) (w : Draws) (h : Handle) (l : Line) (ds : Devices) : Action → Effect
  | .tx f =>
    let r := busTx ds f w
    { reply := .bus r.1, handle := h, line := l, devices := r.2, sent := [transferOf who f r.1] }
  | .config v after =>
    let f := .wr h.addr .config v
    let r := busTx ds f w
    { reply := .bus r.1, handle := h.afterConfigWrite v after r.1, line := l, devices := r.2,
      sent := [transferOf who f r.1] }
  | .arm => { reply := .bit w.arms, handle := h, line := { l with armed := l.armed || w.arms }, devices := ds, sent := [] }
  | .look => { reply := .bit l.flag, handle := h, line := l, devices := ds, sent := [] }
  | .clearFlag => { reply := .bit false, handle := h, line := { l with flag := false }, devices := ds, sent := [] }
  | .waits begun => { reply := .bit (stillWaits ds h begun), handle := h, line := l, devices := ds, sent := [] }

/-- The draws a controller step of the running session takes from the environment. -/
def Env.drawsFor (e : Env) (ds : Devices) (x : Addr) : Action → Draws × Env
  | .tx f => e.frameDraws ds f
  | .config v _ => e.frameDraws ds (.wr x .config v)
  | .arm => let (arms, e) := e.nextArm; ({ bus := .ack, os := false, arms }, e)
  | .look => ({ bus := .ack, os := false, arms := false }, e)
  | .clearFlag => ({ bus := .ack, os := false, arms := false }, e)
  | .waits _ => ({ bus := .ack, os := false, arms := false }, e)

/-- One controller step of the running session. -/
def State.perform (s : State) (a : Action) : Reply × State :=
  let (w, env) := s.env.drawsFor s.devices s.handle.addr a
  let r := Machine.perform .controller w s.handle s.line s.devices a
  (r.reply, { s with handle := r.handle, line := r.line, devices := r.devices, env, wire := r.sent ++ s.wire })

/-- A change of the handle or the line that no other agent can fall into. -/
inductive Update
  /-- `h.engine <- e` (R108). -/
  | engine (e : Engine)
  /-- A new handle at bus address `x`, and a clear line (R109). -/
  | create (x : Addr)
  /-- `line.armed <- false; h.live <- false` (R110). -/
  | kill
  /-- `line.armed <- false; line.edge <- false` (R133). -/
  | disarm
  deriving DecidableEq, Repr

/-- The handle after an update. -/
def Update.onHandle : Update → Handle → Handle
  | .engine e, h => h.setEngine e
  | .create x, _ => Handle.create x
  | .kill, h => { h with live := false }
  | .disarm, h => h

/-- The line after an update. -/
def Update.onLine : Update → Line → Line
  | .engine _, l => l
  | .create _, _ => Line.reset
  | .kill, l => { l with armed := false }
  | .disarm, l => { l with armed := false, edge := false }

/-- An update of the running session. -/
def State.update (s : State) (u : Update) : State := { s with handle := u.onHandle s.handle, line := u.onLine s.line }

/-- `h.engine <- e` in the running session. -/
def State.setEngine (s : State) (e : Engine) : State := { s with handle := s.handle.setEngine e }

/-! ### Returning and raising (R139, R141, R145) -/

/-- Records a command's result for the host; a command that returns is no longer holding. -/
def HostAgent.answer (h : HostAgent) (opcode : Option Byte) (a : Answer) : HostAgent :=
  { h with report := some { opcode, answer := a }, holding := false }

/-- Records the result of the running session's command. -/
def State.answer (s : State) (opcode : Option Byte) (a : Answer) : State := { s with host := s.host.answer opcode a }

/-- The command returns `v` to the host with status 0 (R141). -/
def State.succeed (s : State) (op : Byte) (v : Value) : State := s.answer (some op) (.done v)

/-- `raise E(info)`: the one way a command ends in an error. The pair and the opcode are recorded as the command's
result and control returns to the host; nothing else is saved, and there is no vector (R139, R145). -/
def State.raise (s : State) (op : Byte) (e : HostError) : State := s.answer (some op) (.failed e none)

/-- `raise` after an unwind: the unwind's own error is recorded beside the one reported (R143, R146). -/
def State.raiseBeside (s : State) (op : Byte) (e : HostError) (beside : Option HostError) : State :=
  s.answer (some op) (.failed e beside)

/-- The cause number of an error kind (R138). -/
def HostError.cause : HostError → Nat
  | .transport _ _ _ => 1
  | .config _ => 2
  | .conversionTimeout _ _ => 3
  | .alertTimeout _ _ => 4
  | .lineArm => 5

/-- The status of an error (R141). -/
def HostError.status : HostError → Nat
  | .config _ => 5
  | .transport _ _ _ => 1
  | .conversionTimeout _ _ => 1
  | .alertTimeout _ _ => 1
  | .lineArm => 1

/-- The caller-visible status of a result (R141). A raw frame's is 0 when acknowledged, else 1 (log entry 13). -/
def Answer.status : Answer → Nat
  | .done _ => 0
  | .failed e _ => e.status
  | .frameAck _ => 0
  | .frameFailed _ => 1

/-! ### The host (R36, R68) -/

/-- The byte string the host issues next: none once its program has ended or where it has none (R68). -/
def HostAgent.next (h : HostAgent) : Option (List Byte) :=
  match h.status with
  | some _ => none
  | none => h.pending.head?

/-- The status a program ends with when a command has returned `st` and `left` is what is left of it (R68). -/
def endStatus (st : Nat) (left : List (List Byte)) : Option Nat :=
  if st ≠ 0 then some st else if left = [] then some 0 else none

/-- The status of the last command that returned. -/
def HostAgent.lastStatus (h : HostAgent) : Nat := (h.report.map fun r => r.answer.status).getD 0

/-- A command has returned: the index advances by one whatever its status (R36), and the program ends as R68 says.
A command that holds has not returned (R13). -/
def HostAgent.advance (h : HostAgent) : HostAgent :=
  if h.holding then h
  else { h with pending := h.pending.tail, index := h.index + 1, status := endStatus h.lastStatus h.pending.tail }

end Sys2Proof.Machine
end

