-- ==== Sys2Proof/Machine/Routine.lean ====
section
/-! DEFINITION. A command's rule as a routine: the controller steps it takes, each with what follows from its answer,
and how it ends. The same routine is run whole for the running session and one controller step at a time for every
other session (R46, R151; Machine/Agents.lean). Then the primitives the rules are written with (R79, R80, R92, R139,
R141). -/

namespace Sys2Proof.Machine

/-- What a command does, from where it stands to its end. -/
inductive Routine
  /-- The command returns its result to the host. -/
  | done (opcode : Option Byte) (a : Answer)
  /-- A delay goes on holding: it has not returned (R13, R117). -/
  | hold
  /-- The command has no meaning in this state (R13, R141). -/
  | refuse (r : Refusal)
  /-- An update, and what follows. -/
  | set (u : Update) (rest : Routine)
  /-- A controller step, and what follows from its answer. -/
  | ask (a : Action) (next : Reply → Routine)

/-- The routine after the controller steps that had these answers; the updates before those steps are done with them. -/
def Routine.replay : Routine → List Reply → Routine
  | .set u rest, replies =>
    match replies with
    | [] => .set u rest
    | _ :: _ => rest.replay replies
  | .ask a next, replies =>
    match replies with
    | [] => .ask a next
    | r :: rs => (next r).replay rs
  | .done op a, _ => .done op a
  | .hold, _ => .hold
  | .refuse r, _ => .refuse r

/-- How the frame of a controller step ended. A step that is no frame has no such answer; no routine asks for it. -/
def Reply.outcome : Reply → Except BusFailure (List Byte)
  | .bus r => r
  | .bit _ => .error .timeout

/-- The bit a controller step answered. A frame has no such answer; no routine asks for it. -/
def Reply.yes : Reply → Bool
  | .bus _ => false
  | .bit b => b

/-! ### Endings -/

/-- The command returns `v` with status 0 (R141). -/
def succeed (op : Byte) (v : Value) : Routine := .done (some op) (.done v)

/-- `raise E(info)` (R139, R145). -/
def raise (op : Byte) (e : HostError) : Routine := .done (some op) (.failed e none)

/-- `h.engine <- Idle; raise E(info)` (R108). -/
def raiseIdle (op : Byte) (e : HostError) : Routine := .set (.engine .idle) (raise op e)

/-- `require c else refuse(r)`, checked before anything else (R13, R143). -/
def require (c : Bool) (r : Refusal) (body : Routine) : Routine := if c then body else .refuse r

/-- ConfigError where the operands do not pass their check, before any frame (R140). -/
def checked {α : Type} (op : Byte) (c : Except Culprit α) (body : α → Routine) : Routine :=
  match c with
  | .error what => raise op (.config what)
  | .ok x => body x

/-! ### Controller primitives -/

/-- `MemRead(p, 2)`: PTR, then RD, two controller steps; the bytes received are joined, bits 15:8 first (R42, R79). -/
def memRead (x : Addr) (p : Reg) (onFail : HostError → Routine) (onRead : Word → Routine) : Routine :=
  .ask (.tx (.ptr x p)) fun r1 =>
    match r1.outcome with
    | .error how => onFail (.transport how .ptr p)
    | .ok _ =>
      .ask (.tx (.rd x)) fun r2 =>
        match r2.outcome with
        | .error how => onFail (.transport how .rd p)
        | .ok bytes => onRead (joinBytes bytes)

/-- `MemWrite(2, 2, v)` or `MemWrite(3, 2, v)`: one WR frame, one controller step (R80). -/
def memWrite (x : Addr) (r : WReg) (v : Word) (onFail : HostError → Routine) (onAck : Routine) : Routine :=
  .ask (.tx (.wr x r v)) fun reply =>
    match reply.outcome with
    | .error how => onFail (.transport how .wr r.toReg)
    | .ok _ => onAck

/-- `MemWrite(1, 2, v)` and, on Ack only, `CommitConfig(v)` (R80, R92); the engine moves as `Handle.afterConfigWrite`
says (R108). -/
def writeConfig (v : Word) (after : Option Engine) (onFail : HostError → Routine) (onAck : Routine) : Routine :=
  .ask (.config v after) fun reply =>
    match reply.outcome with
    | .error how => onFail (.transport how .wr .config)
    | .ok _ => onAck

/-! ### Properties of every step a routine can take -/

/-- Every update the routine can make meets `P` and every controller step it can take meets `Q`, whatever the
answers. -/
def Routine.All (P : Update → Prop) (Q : Action → Prop) : Routine → Prop
  | .done _ _ => True
  | .hold => True
  | .refuse _ => True
  | .set u rest => P u ∧ rest.All P Q
  | .ask a next => Q a ∧ ∀ r, (next r).All P Q

end Sys2Proof.Machine
end

