-- ==== Sys2Proof/Machine/Access.lean ====
section
/-! DEFINITION. The register access commands (R82, R83). Neither retries (R84). -/

namespace Sys2Proof.Machine

/-- `readRegister regId` (R82). -/
def readRegisterRoutine (regId : Nat) (h : Handle) : Routine :=
  require h.live .deadHandle <|
    checked Opcode.readRegister (orCulprit .regId (Reg.ofIndex regId)) fun p =>
      memRead h.addr p (raise Opcode.readRegister) fun v => succeed Opcode.readRegister (.word v)

/-- The register a `writeRegister` index names, or why it may not be written (R83). -/
def checkWritable (regId : Nat) : Except Culprit WReg :=
  match Reg.ofIndex regId with
  | none => .error .regId
  | some .conversion => .error .writeToConversion
  | some .config => .ok .config
  | some .low => .ok .low
  | some .high => .ok .high

/-- `writeRegister regId, value`: a Config write is committed to the cache on Ack (R83, R92). -/
def writeRegisterRoutine (regId : Nat) (value : Word) (h : Handle) : Routine :=
  require h.live .deadHandle <|
    checked Opcode.writeRegister (checkWritable regId) fun r =>
      match r with
      | .config => writeConfig value none (raise Opcode.writeRegister) (succeed Opcode.writeRegister .unit)
      | .low => memWrite h.addr .low value (raise Opcode.writeRegister) (succeed Opcode.writeRegister .unit)
      | .high => memWrite h.addr .high value (raise Opcode.writeRegister) (succeed Opcode.writeRegister .unit)

end Sys2Proof.Machine
end

