-- ==== Sys2Proof/Machine/Conversion.lean ====
section
/-! DEFINITION. The conversion engine's commands (R109 to R117). -/

namespace Sys2Proof.Machine

/-- `init address`: a new handle and a clear line; no frame, the devices stay as they are (R109, R155). -/
def initRoutine (address : Nat) : Routine :=
  checked Opcode.init (orCulprit .address (Strap.ofIndex address)) fun a =>
    .set (.create a.addr) (succeed Opcode.init (.handle a.addr))

/-- `deinit`: the line is disarmed and the handle dies; the device stays as it is (R110). -/
def deinitRoutine (h : Handle) : Routine :=
  require h.live .deadHandle <| .set .kill (succeed Opcode.deinit .unit)

/-- The operands of `startSingleShot`, in operand order (R111, R143). -/
def checkChannelGain (channel gain : Nat) : Except Culprit (Channel × Gain) := do
  let c ← checkChannel channel
  let g ← checkGain gain
  return (c, g)

/-- `startSingleShot channel, gain` (R111). -/
def startSingleShotRoutine (channel gain : Nat) (h : Handle) : Routine :=
  require (h.live && h.engine.free) .engineBusy <|
    checked Opcode.startSingleShot (checkChannelGain channel gain) fun x =>
      writeConfig (singleShotWord h.base x.1 x.2) (some .converting) (raise Opcode.startSingleShot)
        (succeed Opcode.startSingleShot .unit)

/-- The poll loop of R113 with `left` polls to go of `n`. Other agents may step during each inter-poll delay, as between
any two controller steps; no delay follows the last poll. -/
def pollLoop (rate : DataRate) (n : Nat) (x : Addr) : Nat → Routine
  | 0 => raiseIdle Opcode.pollUntilReady (.conversionTimeout rate n)
  | left + 1 =>
    memRead x .config (raiseIdle Opcode.pollUntilReady) fun v =>
      if v.getLsbD 15 then .set (.engine .ready) (succeed Opcode.pollUntilReady .ready) else pollLoop rate n x left

/-- `pollUntilReady dataRate` (R113). -/
def pollUntilReadyRoutine (dataRate : Nat) (h : Handle) : Routine :=
  require (h.live && h.engine = .converting) .noConversion <|
    checked Opcode.pollUntilReady (checkDataRate dataRate) fun rate =>
      pollLoop rate (maxPolls rate) h.addr (maxPolls rate)

/-- The Conversion read of `readConversion` and `waitForAlert`: the raw code and its voltage under the operand's gain;
however it ends, the engine is Idle (R100, R108, R114, R136). -/
def readSample (op : Byte) (g : Gain) (x : Addr) : Routine :=
  memRead x .conversion (raiseIdle op) fun v => .set (.engine .idle) (succeed op (.sample v (rawToVolts v g)))

/-- The check of the gain operand of `readConversion` and `waitForAlert`: they end with the engine Idle, "with or
without error" (R108, log entry 10). -/
def checkedGainIdle (op : Byte) (gain : Nat) (body : Gain → Routine) : Routine :=
  match checkGain gain with
  | .error what => raiseIdle op (.config what)
  | .ok g => body g

/-- `readConversion gain` (R114). -/
def readConversionRoutine (gain : Nat) (h : Handle) : Routine :=
  require (h.live && h.engine.free) .engineBusy <|
    checkedGainIdle Opcode.readConversion gain fun g => readSample Opcode.readConversion g h.addr

/-- The operands of `startContinuous`, in operand order (R115, R143). -/
def checkChannelGainRate (channel gain dataRate : Nat) : Except Culprit (Channel × Gain × DataRate) := do
  let c ← checkChannel channel
  let g ← checkGain gain
  let r ← checkDataRate dataRate
  return (c, g, r)

/-- `startContinuous channel, gain, dataRate` (R115). -/
def startContinuousRoutine (channel gain dataRate : Nat) (h : Handle) : Routine :=
  require (h.live && h.engine.free) .engineBusy <|
    checked Opcode.startContinuous (checkChannelGainRate channel gain dataRate) fun x =>
      writeConfig (continuousWord h.base x.1 x.2.1 x.2.2) (some .idle) (raise Opcode.startContinuous)
        (succeed Opcode.startContinuous .unit)

/-- `delay ms` for a given value of ASSUME_SETTLE_SUFFICIENT (R117, R159). Without it the delay only returns. With it a
delay at least as long as the settling delay of the cached DR, on a converting device, holds until a fresh sample;
`holding` says that it has begun to. A delay that holds has not returned, and is tried again after the other agents'
steps (R13, log entry 12). -/
def delayRoutine (assume : Bool) (ms : Nat) (h : Handle) (holding : Bool) : Routine :=
  require h.live .deadHandle <|
    if holding || (assume && settleMs h.dataRate ≤ ms) then
      .ask (.waits holding) fun r => if r.yes then .hold else succeed Opcode.delay .unit
    else succeed Opcode.delay .unit

end Sys2Proof.Machine
end

