-- ==== Sys2Proof/Machine/Comparator.lean ====
section
/-! DEFINITION. The comparator and interrupt-line commands (R128 to R136). -/

namespace Sys2Proof.Machine

/-- The two frames of `setThresholds`; a failed second frame leaves the first in place (R128). -/
def writeThresholds (x : Addr) (low high : Word) (onFail : HostError → Routine) (onAck : Routine) : Routine :=
  memWrite x .low low onFail (memWrite x .high high onFail onAck)

/-- `setThresholds low, high`: the ordering is not checked (R128, C2). -/
def setThresholdsRoutine (low high : Word) (h : Handle) : Routine :=
  require h.live .deadHandle <|
    writeThresholds h.addr low high (raise Opcode.setThresholds) (succeed Opcode.setThresholds .unit)

/-- The Config write of `enableComparator`, MODE and DR from the base word; the engine ends Idle (R91, R108, R129). -/
def writeEnable (op : Byte) (c : CompareArgs) (h : Handle) : Routine :=
  writeConfig (compareWord h.base c) (some .idle) (raise op) (succeed op .unit)

/-- `enableComparator` (R129). -/
def enableComparatorRoutine (channel gain compareMode polarity latch queueDepth : Nat) (h : Handle) : Routine :=
  require (h.live && h.engine.free) .engineBusy <|
    checked Opcode.enableComparator (checkCompareArgs channel gain compareMode polarity latch queueDepth) fun c =>
      writeEnable Opcode.enableComparator c h

/-- The checked operands of `armComparator`: the enumerations, then the two voltages as codes, then their order, on the
volts and in both modes (R130, D25). -/
def checkArm (channel gain compareMode polarity latch queueDepth : Nat) (low high : F64) :
    Except Culprit (CompareArgs × Word × Word) := do
  let c ← checkCompareArgs channel gain compareMode polarity latch queueDepth
  let lo ← checkVolts low c.gain
  let hi ← checkVolts high c.gain
  if Fp.gt low high then .error .thresholdOrder else return (c, lo, hi)

/-- `armComparator`: thresholds, then Config, three frames; nothing is unwound (R130). -/
def armComparatorRoutine (channel gain compareMode polarity latch queueDepth : Nat) (low high : F64) (h : Handle) :
    Routine :=
  require (h.live && h.engine.free) .engineBusy <|
    checked Opcode.armComparator (checkArm channel gain compareMode polarity latch queueDepth low high) fun x =>
      writeThresholds h.addr x.2.1 x.2.2 (raise Opcode.armComparator) (writeEnable Opcode.armComparator x.1 h)

/-- `disableComparator`; the engine is unchanged (R108, R131). -/
def disableComparatorRoutine (h : Handle) : Routine :=
  require (h.live && h.engine.free) .engineBusy <|
    writeConfig (disabledWord h.base) none (raise Opcode.disableComparator) (succeed Opcode.disableComparator .unit)

/-- The cached Config word has the comparator enabled (R132). -/
def Handle.comparatorCached (h : Handle) : Bool :=
  match h.cache with
  | none => false
  | some c => c.extractLsb' 0 2 != 0b11#2

/-- LineArmError, with an error of the unwind recorded beside it (R132, R143, R146, log entry 25). -/
def raiseLineArm (beside : Option HostError) : Routine := .done (some Opcode.armAlertLine) (.failed .lineArm beside)

/-- `armAlertLine`: the collaborator answers Ok or Fail. On Fail the unwind tries `disableComparator` where the cached
comparator is enabled, and LineArmError is reported whatever becomes of the unwind (R132, R143). An engine state that
does not allow `disableComparator` leaves the unwind without effect (R108, R131, D39, log entry 11). -/
def armAlertLineRoutine (h : Handle) : Routine :=
  require h.live .deadHandle <|
    .ask .arm fun r =>
      if r.yes then succeed Opcode.armAlertLine .unit
      else if h.comparatorCached && h.engine.free then
        writeConfig (disabledWord h.base) none (fun e => raiseLineArm (some e)) (raiseLineArm none)
      else raiseLineArm none

/-- `disarmAlertLine`: the flag keeps its value (R133). -/
def disarmAlertLineRoutine (h : Handle) : Routine :=
  require h.live .deadHandle <| .set .disarm (succeed Opcode.disarmAlertLine .unit)

/-- `clearAlertFlag` (R134). -/
def clearAlertFlagRoutine (h : Handle) : Routine :=
  require h.live .deadHandle <| .ask .clearFlag fun _ => succeed Opcode.clearAlertFlag .unit

/-- The wait loop of R136 with `left` looks to go of `n`. The flag's test and its clear are two controller steps, and
other agents may step between them (R48, R144); no delay follows the last look. -/
def alertLoop (g : Gain) (timeoutSamples n : Nat) (x : Addr) : Nat → Routine
  | 0 => raiseIdle Opcode.waitForAlert (.alertTimeout timeoutSamples n)
  | left + 1 =>
    .ask .look fun r =>
      if r.yes then .ask .clearFlag fun _ => readSample Opcode.waitForAlert g x
      else alertLoop g timeoutSamples n x left

/-- `waitForAlert timeoutSamples, gain` (R136). -/
def waitForAlertRoutine (timeoutSamples gain : Nat) (h : Handle) : Routine :=
  require (h.live && h.engine.free) .engineBusy <|
    checkedGainIdle Opcode.waitForAlert gain fun g =>
      let n := alertPolls timeoutSamples h.dataRate
      alertLoop g timeoutSamples n h.addr n

end Sys2Proof.Machine
end

