-- ==== Sys2Proof/Machine/Encoder.lean ====
section
/-! DEFINITION. The configuration-word commands (R87, R88): pure, no frame, no handle needed (R156). -/

namespace Sys2Proof.Machine

/-- `buildConfig` (R87). -/
def buildConfigRoutine (channel gain mode dataRate compareMode polarity latch queueDepth : Nat) (trigger : Bool) :
    Routine :=
  checked Opcode.buildConfig (checkFields channel gain mode dataRate compareMode polarity latch queueDepth trigger)
    fun f => succeed Opcode.buildConfig (.word (buildWord f))

/-- `decodeConfig word` (R88). -/
def decodeConfigRoutine (word : Word) : Routine := succeed Opcode.decodeConfig (.fields (fieldsOf word))

end Sys2Proof.Machine
end

