-- ==== Sys2Proof/Machine/Frames.lean ====
section
/-! DEFINITION. The bus-frame rows: a raw frame put on the bus by the host, outside any handle (R53, R73 to R77). Its
result is the bus's answer itself (log entry 13); the handle's cache and gain are untouched (R168). -/

namespace Sys2Proof.Machine

/-- The result of a raw frame: a read's is the word of the bytes received (R42, log entry 13). -/
def rawAnswer (f : Frame) : Except BusFailure (List Byte) → Answer
  | .error how => .frameFailed how
  | .ok bytes =>
    match f with
    | .ptr _ _ => .frameAck none
    | .wr _ _ _ => .frameAck none
    | .rd _ => .frameAck (some (joinBytes bytes))

/-- One raw frame: one controller step, whose result has no host opcode. -/
def rawFrame (f : Frame) : Routine := .ask (.tx f) fun r => .done none (rawAnswer f r.outcome)

/-- PTR: `dev.ptr <- p` (R74). -/
def ptrRoutine (a : Strap) (p : Reg) : Routine := rawFrame (.ptr a.addr p)

/-- WR_CONVERSION: a write frame with pointer 0 is outside the block's defined behaviour and is refused (R77). -/
def wrConversionRoutine (_a : Strap) (_v : Word) : Routine := .refuse .writeToConversion

/-- WR_CONFIG: `dev.ptr <- 1; DevWrite(1, v)` (R74, R76). -/
def wrConfigRoutine (a : Strap) (v : Word) : Routine := rawFrame (.wr a.addr .config v)

/-- WR_LO_THRESH: `dev.ptr <- 2; DevWrite(2, v)` (R74, R76). -/
def wrLoThreshRoutine (a : Strap) (v : Word) : Routine := rawFrame (.wr a.addr .low v)

/-- WR_HI_THRESH: `dev.ptr <- 3; DevWrite(3, v)` (R74, R76). -/
def wrHiThreshRoutine (a : Strap) (v : Word) : Routine := rawFrame (.wr a.addr .high v)

/-- RD: `DevRead(dev.ptr)`, the device sends two bytes (R42, R74, R75). -/
def rdRoutine (a : Strap) : Routine := rawFrame (.rd a.addr)

end Sys2Proof.Machine
end

