-- ==== Sys2Proof/Machine/Scaler.lean ====
section
/-! DEFINITION. The scaling commands (R97, R101): pure, no frame, no handle needed (R156). -/

namespace Sys2Proof.Machine

/-- `scaleToVoltage raw, gain` (R97). -/
def scaleToVoltageRoutine (raw : Word) (gain : Nat) : Routine :=
  checked Opcode.scaleToVoltage (checkGain gain) fun g => succeed Opcode.scaleToVoltage (.volts (rawToVolts raw g))

/-- The code of a voltage operand, the gain and then the voltage checked, in the order of R101's own pseudocode.
DEDUCED (log entry 29): where both are bad R143's operand order would record the voltage; the command's own rule is the
specific statement of the two. -/
def checkVoltsAndGain (volts : F64) (gain : Nat) : Except Culprit Word := do checkVolts volts (← checkGain gain)

/-- `voltsToCode volts, gain` (R101). -/
def voltsToCodeRoutine (volts : F64) (gain : Nat) : Routine :=
  checked Opcode.voltsToCode (checkVoltsAndGain volts gain) fun c => succeed Opcode.voltsToCode (.code c)

end Sys2Proof.Machine
end

