-- ==== Sys2Proof/Machine/Agents.lean ====
section
/-! DEFINITION. The agents of R6 and how their steps interleave (R46, R151): the routine of every instruction, one
controller step of another session, the steps of converters and interrupt lines (R106, R126, R127), the gap between two
controller steps of the running session, and a routine run whole, with a gap before each of its steps but the first. -/

namespace Sys2Proof.Machine

/-- The routine of an instruction on a handle; `holding` says that its delay has begun to hold. -/
def routine (i : Instr) (h : Handle) (holding : Bool) : Routine :=
  match i with
  | .init address => initRoutine address
  | .deinit => deinitRoutine h
  | .readRegister regId => readRegisterRoutine regId h
  | .writeRegister regId value => writeRegisterRoutine regId value h
  | .buildConfig c g m d cm p l q t => buildConfigRoutine c g m d cm p l q t
  | .decodeConfig word => decodeConfigRoutine word
  | .scaleToVoltage raw gain => scaleToVoltageRoutine raw gain
  | .voltsToCode volts gain => voltsToCodeRoutine volts gain
  | .startSingleShot channel gain => startSingleShotRoutine channel gain h
  | .pollUntilReady dataRate => pollUntilReadyRoutine dataRate h
  | .readConversion gain => readConversionRoutine gain h
  | .startContinuous channel gain dataRate => startContinuousRoutine channel gain dataRate h
  | .delay ms => delayRoutine Config.assumeSettleSufficient ms h holding
  | .setThresholds low high => setThresholdsRoutine low high h
  | .enableComparator c g cm p l q => enableComparatorRoutine c g cm p l q h
  | .armComparator c g cm p l q low high => armComparatorRoutine c g cm p l q low high h
  | .disableComparator => disableComparatorRoutine h
  | .armAlertLine => armAlertLineRoutine h
  | .disarmAlertLine => disarmAlertLineRoutine h
  | .clearAlertFlag => clearAlertFlagRoutine h
  | .waitForAlert timeoutSamples gain => waitForAlertRoutine timeoutSamples gain h
  | .ptr a p => ptrRoutine a p
  | .wrConversion a v => wrConversionRoutine a v
  | .wrConfig a v => wrConfigRoutine a v
  | .wrLoThresh a v => wrLoThreshRoutine a v
  | .wrHiThresh a v => wrHiThreshRoutine a v
  | .rd a => rdRoutine a

/-! ### Another session's controller (R46, R151) -/

/-- The next controller step of a session that stands at a routine: its updates up to the next step, and that step; or
its end. `reached` is how far the command has come. -/
def Routine.turn (w : Draws) (ds : Devices) (reached : Progress) : Routine → Session → Session × Devices × List Transfer
  | .done op a, p => ({ p with host := (p.host.answer op a).advance, busy := none }, ds, [])
  | .hold, p => ({ p with host := { p.host with holding := true }, busy := none }, ds, [])
  | .refuse r, p => ({ p with refused := some r }, ds, [])
  | .set u rest, p => rest.turn w ds reached { p with handle := u.onHandle p.handle, line := u.onLine p.line }
  | .ask a _, p =>
    let e := perform .other w p.handle p.line ds a
    ({ p with handle := e.handle, line := e.line, busy := some { reached with replies := reached.replies ++ [e.reply] } },
      e.devices, e.sent)

/-- How far the session's command has come: one it has not begun starts from its handle as it is. -/
def Session.progress (p : Session) : Progress := p.busy.getD { start := p.handle, replies := [] }

/-- One controller step of a session: it begins the command its host issues next, or goes on with the one it is in the
midst of. A session with nothing to issue, or that has met a refusal, takes no step. -/
def Session.turn (p : Session) (w : Draws) (ds : Devices) : Session × Devices × List Transfer :=
  match p.refused, p.host.next with
  | some _, _ => (p, ds, [])
  | none, none => (p, ds, [])
  | none, some bytes =>
    match decode bytes with
    | .error why => ({ p with refused := some (.undecodable why) }, ds, [])
    | .ok i =>
      ((routine i p.progress.start p.host.holding).replay p.progress.replies).turn w ds p.progress p

/-! ### The other agents -/

/-- The asserting edge of the device at `a` reaches every line that watches it (R126, R151). -/
def State.alertEdge (s : State) (a : Strap) : State :=
  { s with
    line := captureFor a s.handle s.line
    others := s.others.map fun p => { p with line := captureFor a p.handle p.line } }

/-- The conversion-complete step of the device at `a`, where enabled, with `EdgeDetect` at its end (R106, R121, R126). -/
def State.convert (s : State) (a : Strap) (sample : Word) (alertDraw : Bool) (cntDraw : Nat) : State :=
  match s.devices.get a with
  | none => s
  | some d =>
    if d.converting then
      let d' := d.complete sample alertDraw cntDraw
      let s' := { s with devices := s.devices.set a (some d') }
      if !d.asserted && d'.asserted then s'.alertEdge a else s'
    else s

/-- One step of an agent other than the running session's controller; a step that is not enabled changes nothing
(R6, R46). -/
def State.agentStep (s : State) : AgentStep → State
  | .convert a sample alertDraw cntDraw => s.convert a sample alertDraw cntDraw
  | .deliver => { s with line := s.line.step }
  | .deliverOther k => { s with others := s.others.modify k fun p => { p with line := p.line.step } }
  | .controller k w =>
    match s.others[k]? with
    | none => s
    | some p =>
      let r := p.turn w s.devices
      { s with others := s.others.set k r.1, devices := r.2.1, wire := r.2.2 ++ s.wire }
  | .foreign f =>
    { s with
      devices := s.devices.deliver f
      wire := { sender := .other, frame := f, failure := none, data := [] } :: s.wire }

/-- The steps the other agents take, in order. -/
def State.agentSteps (s : State) (steps : List AgentStep) : State := steps.foldl State.agentStep s

/-- The gap between two controller steps: the other agents take the steps the environment chooses (R46, R144). They
change the devices, the lines, the other sessions and the wire; the running handle and its host stay. -/
def State.gap (s : State) : State :=
  let (steps, env) := s.env.nextGap
  let t := s.agentSteps steps
  { s with devices := t.devices, line := t.line, others := t.others, wire := t.wire, env }

/-! ### The running session -/

/-- The running session's command run whole. The other agents step in a gap before each controller step but the first;
`begun` says that one has been taken (R46, log entry 1). -/
def Routine.run : Routine → Bool → State → Out
  | .done op a, _, s => .next (s.answer op a)
  | .hold, _, s => .next { s with host := { s.host with holding := true } }
  | .refuse r, _, _ => .refused r
  | .set u rest, begun, s => rest.run begun (s.update u)
  | .ask a next, begun, s =>
    let r := (if begun then s.gap else s).perform a
    (next r.1).run true r.2

end Sys2Proof.Machine
end

