-- ==== Sys2Proof/Machine/Meanings.lean ====
section
/-! DEFINITION. The meaning of each instruction for the running session: its routine, run whole. -/

namespace Sys2Proof.Machine

/-- The meaning of `init` (R109). -/
def execInit (address : Nat) (s : State) : Out := (initRoutine address).run false s

/-- The meaning of `deinit` (R110). -/
def execDeinit (s : State) : Out := (deinitRoutine s.handle).run false s

/-- The meaning of `readRegister` (R82). -/
def execReadRegister (regId : Nat) (s : State) : Out := (readRegisterRoutine regId s.handle).run false s

/-- The meaning of `writeRegister` (R83). -/
def execWriteRegister (regId : Nat) (value : Word) (s : State) : Out :=
  (writeRegisterRoutine regId value s.handle).run false s

/-- The meaning of `buildConfig` (R87). -/
def execBuildConfig (channel gain mode dataRate compareMode polarity latch queueDepth : Nat) (trigger : Bool)
    (s : State) : Out :=
  (buildConfigRoutine channel gain mode dataRate compareMode polarity latch queueDepth trigger).run false s

/-- The meaning of `decodeConfig` (R88). -/
def execDecodeConfig (word : Word) (s : State) : Out := (decodeConfigRoutine word).run false s

/-- The meaning of `scaleToVoltage` (R97). -/
def execScaleToVoltage (raw : Word) (gain : Nat) (s : State) : Out := (scaleToVoltageRoutine raw gain).run false s

/-- The meaning of `voltsToCode` (R101). -/
def execVoltsToCode (volts : F64) (gain : Nat) (s : State) : Out := (voltsToCodeRoutine volts gain).run false s

/-- The meaning of `startSingleShot` (R111). -/
def execStartSingleShot (channel gain : Nat) (s : State) : Out :=
  (startSingleShotRoutine channel gain s.handle).run false s

/-- The meaning of `pollUntilReady` (R113). -/
def execPollUntilReady (dataRate : Nat) (s : State) : Out := (pollUntilReadyRoutine dataRate s.handle).run false s

/-- The meaning of `readConversion` (R114). -/
def execReadConversion (gain : Nat) (s : State) : Out := (readConversionRoutine gain s.handle).run false s

/-- The meaning of `startContinuous` (R115). -/
def execStartContinuous (channel gain dataRate : Nat) (s : State) : Out :=
  (startContinuousRoutine channel gain dataRate s.handle).run false s

/-- `delay ms` for a given value of ASSUME_SETTLE_SUFFICIENT (R117, R159). -/
def delayWith (assume : Bool) (ms : Nat) (s : State) : Out :=
  (delayRoutine assume ms s.handle s.host.holding).run false s

/-- The meaning of `delay` (R117). -/
def execDelay (ms : Nat) (s : State) : Out := delayWith Config.assumeSettleSufficient ms s

/-- The meaning of `setThresholds` (R128). -/
def execSetThresholds (low high : Word) (s : State) : Out := (setThresholdsRoutine low high s.handle).run false s

/-- The meaning of `enableComparator` (R129). -/
def execEnableComparator (channel gain compareMode polarity latch queueDepth : Nat) (s : State) : Out :=
  (enableComparatorRoutine channel gain compareMode polarity latch queueDepth s.handle).run false s

/-- The meaning of `armComparator` (R130). -/
def execArmComparator (channel gain compareMode polarity latch queueDepth : Nat) (low high : F64) (s : State) : Out :=
  (armComparatorRoutine channel gain compareMode polarity latch queueDepth low high s.handle).run false s

/-- The meaning of `disableComparator` (R131). -/
def execDisableComparator (s : State) : Out := (disableComparatorRoutine s.handle).run false s

/-- The meaning of `armAlertLine` (R132). -/
def execArmAlertLine (s : State) : Out := (armAlertLineRoutine s.handle).run false s

/-- The meaning of `disarmAlertLine` (R133). -/
def execDisarmAlertLine (s : State) : Out := (disarmAlertLineRoutine s.handle).run false s

/-- The meaning of `clearAlertFlag` (R134). -/
def execClearAlertFlag (s : State) : Out := (clearAlertFlagRoutine s.handle).run false s

/-- The meaning of `waitForAlert` (R136). -/
def execWaitForAlert (timeoutSamples gain : Nat) (s : State) : Out :=
  (waitForAlertRoutine timeoutSamples gain s.handle).run false s

/-- The meaning of `ptr` (R74). -/
def execPtr (a : Strap) (p : Reg) (s : State) : Out := (ptrRoutine a p).run false s

/-- The meaning of `wrConversion` (R77). -/
def execWrConversion (a : Strap) (v : Word) (s : State) : Out := (wrConversionRoutine a v).run false s

/-- The meaning of `wrConfig` (R76). -/
def execWrConfig (a : Strap) (v : Word) (s : State) : Out := (wrConfigRoutine a v).run false s

/-- The meaning of `wrLoThresh` (R76). -/
def execWrLoThresh (a : Strap) (v : Word) (s : State) : Out := (wrLoThreshRoutine a v).run false s

/-- The meaning of `wrHiThresh` (R76). -/
def execWrHiThresh (a : Strap) (v : Word) (s : State) : Out := (wrHiThreshRoutine a v).run false s

/-- The meaning of `rd` (R75). -/
def execRd (a : Strap) (s : State) : Out := (rdRoutine a).run false s

end Sys2Proof.Machine
end

