-- ==== Sys2Proof/Machine/Dispatch.lean ====
section
/-! DEFINITION. One arm per instruction: its meaning. -/

namespace Sys2Proof.Machine

/-- The meaning of an instruction. -/
def exec (i : Instr) (s : State) : Host.Outcome State Fault Refusal :=
  match i with
  | .init address => Sys2Proof.Machine.execInit address s
  | .deinit => Sys2Proof.Machine.execDeinit s
  | .readRegister regId => Sys2Proof.Machine.execReadRegister regId s
  | .writeRegister regId value => Sys2Proof.Machine.execWriteRegister regId value s
  | .buildConfig c g m d cm p l q t => Sys2Proof.Machine.execBuildConfig c g m d cm p l q t s
  | .decodeConfig word => Sys2Proof.Machine.execDecodeConfig word s
  | .scaleToVoltage raw gain => Sys2Proof.Machine.execScaleToVoltage raw gain s
  | .voltsToCode volts gain => Sys2Proof.Machine.execVoltsToCode volts gain s
  | .startSingleShot channel gain => Sys2Proof.Machine.execStartSingleShot channel gain s
  | .pollUntilReady dataRate => Sys2Proof.Machine.execPollUntilReady dataRate s
  | .readConversion gain => Sys2Proof.Machine.execReadConversion gain s
  | .startContinuous channel gain dataRate => Sys2Proof.Machine.execStartContinuous channel gain dataRate s
  | .delay ms => Sys2Proof.Machine.execDelay ms s
  | .setThresholds low high => Sys2Proof.Machine.execSetThresholds low high s
  | .enableComparator c g cm p l q => Sys2Proof.Machine.execEnableComparator c g cm p l q s
  | .armComparator c g cm p l q low high => Sys2Proof.Machine.execArmComparator c g cm p l q low high s
  | .disableComparator => Sys2Proof.Machine.execDisableComparator s
  | .armAlertLine => Sys2Proof.Machine.execArmAlertLine s
  | .disarmAlertLine => Sys2Proof.Machine.execDisarmAlertLine s
  | .clearAlertFlag => Sys2Proof.Machine.execClearAlertFlag s
  | .waitForAlert timeoutSamples gain => Sys2Proof.Machine.execWaitForAlert timeoutSamples gain s
  | .ptr a p => Sys2Proof.Machine.execPtr a p s
  | .wrConversion a v => Sys2Proof.Machine.execWrConversion a v s
  | .wrConfig a v => Sys2Proof.Machine.execWrConfig a v s
  | .wrLoThresh a v => Sys2Proof.Machine.execWrLoThresh a v s
  | .wrHiThresh a v => Sys2Proof.Machine.execWrHiThresh a v s
  | .rd a => Sys2Proof.Machine.execRd a s

end Sys2Proof.Machine
end

