-- ==== Sys2Proof/Machine/Step.lean ====
section
/-! DEFINITION. One step of the machine: a gap, and the next command of the running session's host (R6, R46, R68). The
block has no program counter and fetches nothing (R36, R49): what a step runs is the byte string the host issues next
(log entry 6). -/

namespace Sys2Proof.Machine

/-- The refusal another session has met, if one has. -/
def State.refusal (s : State) : Option Refusal := s.others.findSome? Session.refused

/-- Ends a step that began with the other sessions `before`: a command of another session that was refused refuses the
step, since it leaves no state (R13, D39). Where there is no other session there is none to look at. -/
def State.seal (before : List Session) (t : State) : Out :=
  match before with
  | [] => .next t
  | _ :: _ =>
    match t.refusal with
    | none => .next t
    | some r => .refused r

/-- What a command's outcome leaves: the host's position moves as R36 and R68 say. -/
def returned (before : List Session) : Out → Out
  | .next t => State.seal before { t with host := t.host.advance }
  | .fault f => .fault f
  | .refused r => .refused r

/-- One step. With no command to issue, the running host waits and only the other agents step (log entry 18). -/
def step (s : State) : Host.Outcome State Fault Refusal :=
  let t := s.gap
  match t.host.next with
  | none => State.seal s.others t
  | some bytes =>
    match decode bytes with
    | .error why => .refused (.undecodable why)
    | .ok i => returned s.others (exec i t)

/-- `s` with the instruction of a table row's word as the running host's next command. It stands for the host being given
that command (log entry 6). -/
def State.withFetchWord (s : State) (nbits w : Nat) : State :=
  { s with
    host := { s.host with pending := tableBytes nbits w :: s.host.pending, status := none, holding := false } }

end Sys2Proof.Machine
end

