-- ==== Sys2Proof/Safety.lean ====
section
/-! DEFINITION. What holds of every state a run can reach, in the terms the statements use: the invariant of one
device, of one handle, and of the whole state; and the conditions under which a command completes. -/

namespace Sys2Proof.Machine

/-- What every step keeps of a device: it free-runs exactly when MODE = 0 (R27, R105), and its queue counter and output
agree with COMP_QUE: nothing counted and nothing asserted while disabled, at most the queue depth otherwise
(R29, R121, R124). -/
def Device.Inv (d : Device) : Prop :=
  (d.mode = .continuous ↔ d.singleShot = false) ∧
  match d.depth with
  | none => d.cnt = 0 ∧ d.alert = false
  | some n => d.cnt ≤ n

/-- What every step keeps of a handle between commands: a live handle has an address of ADDR_MAP (R32), its gain is the
gain of the cached word (R34, R92), and Configuring is seen neither between commands (R108) nor, by
the model's choice, between the controller steps of one (log entry 30). -/
def Handle.Inv (h : Handle) : Prop :=
  (h.live = true → (Strap.ofAddr h.addr).isSome = true) ∧
  h.gain = h.cache.map (fun c => (fieldsOf c).gain) ∧
  h.engine ≠ .configuring

/-- Every device on the bus meets its invariant. -/
def Devices.Inv (ds : Devices) : Prop := ∀ a d, ds.get a = some d → d.Inv

/-- The invariant of the whole state: the other sessions' handles meet it at every controller step of theirs. -/
def State.Inv (s : State) : Prop := s.devices.Inv ∧ s.handle.Inv ∧ ∀ p ∈ s.others, p.handle.Inv

/-- The handle is live, and its device is `d`, at strap `a`. -/
def State.Serves (s : State) (a : Strap) (d : Device) : Prop :=
  s.handle.live = true ∧ s.handle.addr = a.addr ∧ s.devices.get a = some d

/-- The next `n` frames are acknowledged (R171). -/
def Env.acks (e : Env) (n : Nat) : Prop := ∃ rest, e.frames = List.replicate n BusAnswer.ack ++ rest

/-- In the next `n` gaps no other agent steps. -/
def Env.quiet (e : Env) (n : Nat) : Prop := ∃ rest, e.gaps = List.replicate n [] ++ rest

/-- The environment after `n` frames and `m` gaps have been answered from its queues. -/
def Env.after (e : Env) (n m : Nat) : Env := { e with frames := e.frames.drop n, gaps := e.gaps.drop m }

/-- A frame of the running session's controller that was acknowledged, with the bytes the device sent. -/
def sentAck (f : Frame) (data : List Byte) : Transfer := { sender := .controller, frame := f, failure := none, data }

/-- A frame of the running session's controller that failed. -/
def sentFail (f : Frame) (how : BusFailure) : Transfer :=
  { sender := .controller, frame := f, failure := some how, data := [] }

/-- The bus's answer is this failure, with this effect on the device (R73). -/
def FailsAs (ans : BusAnswer) (how : BusFailure) (took : Bool) : Prop :=
  ans = .nak took ∧ how = .nak ∨ ans = .timeout took ∧ how = .timeout

/-- `s` once the frames `sent` (newest first) have crossed the bus, of which `n` answers and `m` gaps came from the
queues, and the device at `a` has become `d`; all else is as in `s`. -/
def State.served (s : State) (a : Strap) (d : Device) (n m : Nat) (sent : List Transfer) : State :=
  { s with devices := s.devices.set a (some d), env := s.env.after n m, wire := sent ++ s.wire }

/-- The frames that crossed the bus between `s` and a later state `t`, newest first, were `sent`. -/
def SentBetween (s t : State) (sent : List Transfer) : Prop := t.wire = sent ++ s.wire

/-- The operand a ConfigError records: of the operands, in operand order and each with whether it is out of range, the
first that is (R138, R143). -/
def firstBad (operands : List (Bool × Culprit)) : Option Culprit := (operands.find? (·.1)).map (·.2)

/-- The frames of one poll of the Config register, newest first, which reads `v` (R79, R113). -/
def pollFrames (a : Strap) (v : Word) : List Transfer :=
  [sentAck (.rd a.addr) (wordBytes v), sentAck (.ptr a.addr .config) []]

/-- The handle's cache agrees with the device it wrote: `h.cache = Some c ⇒ dev.cfg = c[14:0]` (R168). -/
def State.CacheAgrees (s : State) : Prop :=
  ∀ c d, s.handle.cache = some c → s.devices.at s.handle.addr = some d → d.cfg = c.extractLsb' 0 15

end Sys2Proof.Machine
end

