-- ==== Sys2Proof/Certificates/Slice0/Obligations.lean ====
section
/-! DEFINITION. The statements for the provers. Each says what an instruction or the machine does, from the numbered
rules of spec/; its docstring names them. Newest frames stand first in a list of transfers. -/

section
open Sys2Proof Sys2Proof.Machine

/-! ### Encoding -/

/-- Byte strings written out from the frames of R53 and the opcodes of R67 decode to the instruction they stand for, and
reserved ones are rejected by name (R54, R70, R78). How the operand bytes after a host opcode are laid out, as in
`11 02 E0 C0` and `30 04 02`, no rule says: it is the model's choice (log entry 5). -/
def Obligations.WrittenOutBytesDecode : Prop :=
  decode [0x90#8, 0x01#8, 0xC5#8, 0x83#8] = .ok (.wrConfig .gnd 0xC583#16) ∧
  decode [0x92#8, 0x02#8, 0x12#8, 0x34#8] = .ok (.wrLoThresh .vdd 0x1234#16) ∧
  decode [0x96#8, 0x03#8] = .ok (.ptr .scl .high) ∧
  decode [0x95#8, 0x3E#8, 0x80#8] = .ok (.rd .sda) ∧
  decode [0x11#8, 0x02#8, 0xE0#8, 0xC0#8] = .ok (.writeRegister 2 0xE0C0#16) ∧
  decode [0x30#8, 0x04#8, 0x02#8] = .ok (.startSingleShot 4 2) ∧
  decode [0x90#8, 0x04#8] = .error .reservedPointer ∧
  decode [0x90#8, 0x01#8, 0xC5#8] = .error .frameLength ∧
  decode [0x03#8] = .error .unknownOpcode

/-- Every well-formed instruction is read back from its bytes, with every operand at every value. The operand layout of
host commands is the model's choice (log entry 5). -/
def Obligations.DecodeOfEncodeIsTheInstruction : Prop :=
  ∀ i : Instr, i.wf = true → decode (encode i) = .ok i

/-- Each byte string has at most one meaning: what decodes is well formed and encodes to the same bytes, but for the two
data bytes of RD, which the device sends; its address byte is fixed (R51, R53; log entry 5). -/
def Obligations.EncodeOfDecodeIsTheBytes : Prop :=
  ∀ (bytes : List Byte) (i : Instr), decode bytes = .ok i →
    i.wf = true ∧
    ((∃ a b1 b0, i = .rd a ∧ bytes = [addressByte a.addr true, b1, b0]) ∨ encode i = bytes)

/-! ### The machine -/

/-- A step runs the command the host issues: after the gap, the decoded instruction's meaning; then the host moves on by
`HostAgent.advance`: when the command has returned, the index has grown by one and the command has left the program,
and when a delay holds the host stays as it is (R13, R36, R68). A refused command refuses the step, also one of another
session (R13, D39), bytes that are no instruction are refused (R70, R78), and with no command to issue only the other
agents step (log entry 18). -/
def Obligations.StepRunsTheIssuedCommand : Prop :=
  ∀ s u : State, u = s.gap →
    (∀ bytes rest i t, u.host.status = none → u.host.pending = bytes :: rest → decode bytes = .ok i →
      exec i u = .next t →
      ((∀ p ∈ t.others, p.refused = none) → step s = .next { t with host := t.host.advance }) ∧
      ((∃ p ∈ t.others, p.refused ≠ none) → ∃ r, step s = .refused r) ∧
      (t.host.holding = false → t.host.advance.pending = rest ∧ t.host.advance.index = u.host.index + 1 ∧
        t.host.advance.report = t.host.report) ∧
      (t.host.holding = true → t.host.advance = t.host)) ∧
    (∀ bytes rest i r, u.host.status = none → u.host.pending = bytes :: rest → decode bytes = .ok i →
      exec i u = .refused r → step s = .refused r) ∧
    (∀ bytes rest e, u.host.status = none → u.host.pending = bytes :: rest → decode bytes = .error e →
      step s = .refused (.undecodable e)) ∧
    (u.host.status ≠ none ∨ u.host.pending = [] → (∀ p ∈ u.others, p.refused = none) → step s = .next u)

/-- A program ends at the first command whose status is not 0, with that status, or after its last command with
status 0; until then the host issues the rest (R68). -/
def Obligations.ProgramEndsAtFirstFailure : Prop :=
  ∀ (h : HostAgent) (b : List Byte) (rest : List (List Byte)) (r : Report),
    h.holding = false → h.status = none → h.pending = b :: rest → h.report = some r →
    (r.answer.status ≠ 0 → h.advance.status = some r.answer.status ∧ h.advance.next = none) ∧
    (r.answer.status = 0 → rest = [] → h.advance.status = some 0 ∧ h.advance.next = none) ∧
    (∀ b' rest', r.answer.status = 0 → rest = b' :: rest' → h.advance.status = none ∧ h.advance.next = some b')

/-- The sessions and their programs. No command changes what its host still has to issue or its index, that is the
step's doing (R36, R68), nor, where no other agent steps, another session. Another session's controller step changes
that session alone and puts at most one whole frame on the bus (R46, R151). So the two frames of its `readRegister 2`
are two steps: whatever falls between them, the command returns what the device sends at the second, which is
LowThreshold if no other frame has moved the pointer (R79, R82, R165). The running session's command as one step of the
machine with gaps, and the others' as steps in those gaps, are log entries 1 and 7. -/
def Obligations.CommandsLeaveTheProgramAlone : Prop :=
  (∀ (i : Instr) (s t : State), exec i s = .next t →
    t.host.pending = s.host.pending ∧ t.host.index = s.host.index ∧ t.host.status = s.host.status ∧
    t.others.length = s.others.length ∧
    ((∀ g ∈ s.env.gaps, g = []) → t.env.drawn = s.env.drawn → t.others = s.others)) ∧
  (∀ (s t : State) (k : Nat) (w : Draws), t = s.agentStep (.controller k w) →
    t.handle = s.handle ∧ t.line = s.line ∧ t.host = s.host ∧ t.env = s.env ∧
    (∀ j, j ≠ k → t.others[j]? = s.others[j]?) ∧
    (t.wire = s.wire ∧ t.devices = s.devices ∨
      ∃ x, t.wire = x :: s.wire ∧ x.sender = .other ∧
        (x.failure = none → t.devices = s.devices.deliver x.frame) ∧
        (x.failure ≠ none → t.devices = s.devices ∨ t.devices = s.devices.deliver x.frame))) ∧
  (∀ (s u u' : State) (k : Nat) (w1 w2 w3 : Draws) (p : Session) (rest : List (List Byte)) (a : Strap) (d e : Device),
    s.others[k]? = some p → p.busy = none → p.refused = none → p.host.status = none → p.host.holding = false →
    p.host.pending = [0x10#8, 0x02#8] :: rest → p.handle.live = true → p.handle.addr = a.addr →
    s.devices.get a = some d → w1.bus = .ack → w2.bus = .ack →
    u.others[k]? = (s.agentStep (.controller k w1)).others[k]? → u.devices.get a = some e →
    u'.others[k]? = (u.agentStep (.controller k w2)).others[k]? →
    (s.agentStep (.controller k w1)).devices = s.devices.set a (some { d with ptr := .low }) ∧
    (e.ptr = .low → e.readValue w2.os = e.low) ∧
    (u.agentStep (.controller k w2)).wire =
      { sender := .other, frame := .rd a.addr, failure := none, data := wordBytes (e.readValue w2.os) } :: u.wire ∧
    ∃ q, (u'.agentStep (.controller k w3)).others[k]? = some q ∧ q.handle = p.handle ∧ q.line = p.line ∧
      q.busy = none ∧ q.refused = none ∧ q.host.index = p.host.index + 1 ∧ q.host.pending = rest ∧
      q.host.report = some { opcode := some 0x10#8, answer := .done (.word (e.readValue w2.os)) })

/-- The values the spec gives for reset: every device of the reset state is at power-on reset, no handle is live and the
line is disarmed (R38, R154, R156). Which bus positions are populated is the model's choice (log entry 3). -/
def Obligations.ResetLeavesTheStatedValues : Prop :=
  (∀ a d, State.reset.devices.get a = some d →
    d.conversion = 0x0000#16 ∧ d.value true .config = 0x8583#16 ∧ d.low = 0x8000#16 ∧ d.high = 0x7FFF#16 ∧
    d.ptr = .conversion ∧ d.mode = .powerDown ∧ d.fresh = false ∧ d.cnt = 0 ∧ d.alert = false ∧ d.pin = .highZ) ∧
  State.reset.handle.live = false ∧ State.reset.line.armed = false

/-- The invariant of Safety.lean holds at reset. -/
def Obligations.ResetMeetsTheInvariant : Prop := State.reset.Inv

/-- Every step keeps the invariant: a device free-runs exactly when MODE = 0, its counter and output agree with
COMP_QUE, and a handle's address, gain and engine stay legal, whatever the bus and the other agents do
(R27, R29, R32, R34, R105, R108, R121, R124). That a session in the midst of a command is not in Configuring either is
the model's choice (log entry 30). -/
def Obligations.StepKeepsTheInvariant : Prop :=
  ∀ s t : State, s.Inv → step s = .next t → t.Inv

/-! ### Bus frames -/

/-- R31: the ALERT pin's level, for every device. -/
def Obligations.PinLevelFollowsState : Prop :=
  ∀ d : Device,
    (d.cfg.extractLsb' 0 2 = 0b11#2 → d.pin = .highZ) ∧
    (d.cfg.extractLsb' 0 2 ≠ 0b11#2 → d.alert = true → d.cfg.getLsbD 3 = true → d.pin = .high) ∧
    (d.cfg.extractLsb' 0 2 ≠ 0b11#2 → d.alert = true → d.cfg.getLsbD 3 = false → d.pin = .low) ∧
    (d.cfg.extractLsb' 0 2 ≠ 0b11#2 → d.alert = false → d.cfg.getLsbD 3 = true → d.pin = .low) ∧
    (d.cfg.extractLsb' 0 2 ≠ 0b11#2 → d.alert = false → d.cfg.getLsbD 3 = false → d.pin = .high)

/-- An acknowledged raw PTR frame sets the pointer and nothing else of the device; raw threshold writes also store the
value; no other device, handle, line or session changes (R74, R76, R125). The report is log entry 13's. -/
def Obligations.RawPointerAndThresholdFramesTakeEffect : Prop :=
  ∀ (s : State) (a : Strap) (d : Device), s.devices.get a = some d → s.env.acks 1 →
    (∀ p : Reg, exec (.ptr a p) s = .next ((s.served a { d with ptr := p } 1 0
      [sentAck (.ptr a.addr p) []]).answer none (.frameAck none))) ∧
    (∀ v : Word, exec (.wrLoThresh a v) s = .next ((s.served a { d with ptr := .low, low := v } 1 0
      [sentAck (.wr a.addr .low v) []]).answer none (.frameAck none))) ∧
    (∀ v : Word, exec (.wrHiThresh a v) s = .next ((s.served a { d with ptr := .high, high := v } 1 0
      [sentAck (.wr a.addr .high v) []]).answer none (.frameAck none)))

/-- An acknowledged raw Config write stores bits 14:0, clears `fresh`, resets the comparator, and moves the converter as
R105's table says (R24, R76, R105, R124). The report of a raw frame, with no opcode, is log entry 13's choice. -/
def Obligations.RawConfigWriteActsOnTheConverter : Prop :=
  ∀ (s : State) (a : Strap) (d : Device) (v : Word), s.devices.get a = some d → s.env.acks 1 →
    ∃ m, exec (.wrConfig a v) s = .next ((s.served a
        { d with ptr := .config, cfg := v.extractLsb' 0 15, mode := m, fresh := false, cnt := 0, alert := false } 1 0
        [sentAck (.wr a.addr .config v) []]).answer none (.frameAck none)) ∧
      (v.getLsbD 8 = false → m = .continuous) ∧
      (v.getLsbD 8 = true → d.mode = .continuous → m = .singleConverting) ∧
      (v.getLsbD 8 = true → d.mode = .powerDown → v.getLsbD 15 = true → m = .singleConverting) ∧
      (v.getLsbD 8 = true → d.mode = .powerDown → v.getLsbD 15 = false → m = .powerDown) ∧
      (v.getLsbD 8 = true → d.mode = .singleConverting → m = .singleConverting)

/-- An acknowledged raw RD frame returns the register at the pointer, bits 15:8 sent first, leaves the pointer, and
clears a latched alert exactly where it reads Conversion (R42, R74, R75, R104, R123). In Continuous mode the OS bit of a
Config read is the next answer of CONT_OS_READ, which no other read takes. The report of a raw frame, with no opcode, is
log entry 13's choice. -/
def Obligations.RawReadReturnsTheRegisterAtThePointer : Prop :=
  ∀ (s : State) (a : Strap) (d : Device), s.devices.get a = some d → s.env.acks 1 →
    ∃ (v : Word) (e : Env), exec (.rd a) s = .next (({ s.served a
        { d with alert := if d.ptr = Reg.conversion ∧ d.cfg.getLsbD 2 = true then false else d.alert } 1 0
        [sentAck (.rd a.addr) [v.extractLsb' 8 8, v.extractLsb' 0 8]] with env := e }).answer none
          (.frameAck (some v))) ∧
      (d.ptr = .conversion → v = d.conversion) ∧
      (d.ptr = .low → v = d.low) ∧
      (d.ptr = .high → v = d.high) ∧
      (d.ptr = .config → v.extractLsb' 0 15 = d.cfg ∧
        (d.mode = .powerDown → v.getLsbD 15 = true) ∧ (d.mode = .singleConverting → v.getLsbD 15 = false) ∧
        (∀ os rest, d.mode = .continuous → s.env.osReads = os :: rest →
          v.getLsbD 15 = os ∧ e = { s.env.after 1 0 with osReads := rest }) ∧
        (d.mode = .continuous → s.env.osReads = [] → e = { s.env.after 1 0 with drawn := s.env.drawn + 1 })) ∧
      (d.ptr ≠ .config ∨ d.mode ≠ .continuous → e = s.env.after 1 0)

/-- A write frame with pointer 0 is refused as a raw frame, and `writeRegister 0` is a ConfigError before any frame
(R77, R83). -/
def Obligations.ConversionCannotBeWritten : Prop :=
  (∀ (a : Strap) (v : Word) (s : State), exec (.wrConversion a v) s = .refused .writeToConversion) ∧
  (∀ (v : Word) (s : State), s.handle.live = true →
    exec (.writeRegister 0 v) s = .next (s.raise 0x11#8 (.config .writeToConversion)))

/-- A frame that fails took no effect or its full effect, never a part of one (R73): for every raw frame and every
answer of the bus, the device at the address is as before or as after an acknowledged frame, the report names the
failure (log entry 13's choice), and nothing but that device changes (R74). -/
def Obligations.FailedFrameTakesAllOrNothing : Prop :=
  ∀ (s : State) (a : Strap) (d : Device) (i : Instr) (f : Frame) (ans : BusAnswer) (how : BusFailure) (took : Bool)
    (answers : List BusAnswer),
    s.devices.get a = some d → s.env.frames = ans :: answers →
    FailsAs ans how took →
    ((∃ p, i = .ptr a p ∧ f = .ptr a.addr p) ∨ (∃ v, i = .wrConfig a v ∧ f = .wr a.addr .config v) ∨
      (∃ v, i = .wrLoThresh a v ∧ f = .wr a.addr .low v) ∨ (∃ v, i = .wrHiThresh a v ∧ f = .wr a.addr .high v) ∨
      (i = .rd a ∧ f = .rd a.addr)) →
    exec i s = .next ((s.served a (if took then d.deliver f else d) 1 0 [sentFail f how]).answer none (.frameFailed how))

/-- The frame of the raw frames: whatever the bus answers and whatever the address, every other device, the handle, the
line and the sessions are unchanged, and a frame to an empty position changes no device and is not acknowledged
(R74, R109; log entry 4). Its report, with no opcode, is log entry 13's choice. -/
def Obligations.RawFramesReachOneDevice : Prop :=
  ∀ (s t : State) (a : Strap) (i : Instr),
    ((∃ p, i = .ptr a p) ∨ (∃ v, i = .wrConfig a v) ∨ (∃ v, i = .wrLoThresh a v) ∨ (∃ v, i = .wrHiThresh a v) ∨
      i = .rd a) → exec i s = .next t →
    (∀ b, b ≠ a → t.devices.get b = s.devices.get b) ∧ t.handle = s.handle ∧ t.line = s.line ∧ t.others = s.others ∧
    (s.devices.get a = none → t.devices = s.devices ∧
      ∃ how, t.host.report = some { opcode := none, answer := .frameFailed how })

/-! ### Register access commands -/

/-- `readRegister` on an acknowledging bus returns the register: PTR then RD; only the pointer moves, and a latched alert
is cleared exactly by a Conversion read (R79, R82, R104, R123). In Continuous mode a Config read completes too, with bit
15 either value. -/
def Obligations.ReadRegisterReturnsTheRegister : Prop :=
  ∀ (s : State) (a : Strap) (d : Device), s.Serves a d → s.env.acks 2 → s.env.quiet 1 →
    (∀ (i : Nat) (p : Reg) (v : Word),
      (i = 0 ∧ p = .conversion ∧ v = d.conversion ∨
        i = 1 ∧ p = .config ∧ d.mode = .powerDown ∧ v = 1#1 ++ d.cfg ∨
        i = 1 ∧ p = .config ∧ d.mode = .singleConverting ∧ v = 0#1 ++ d.cfg ∨
        i = 2 ∧ p = .low ∧ v = d.low ∨ i = 3 ∧ p = .high ∧ v = d.high) →
      exec (.readRegister i) s = .next ((s.served a
        { d with ptr := p, alert := if p = .conversion ∧ d.cfg.getLsbD 2 = true then false else d.alert } 2 1
        [sentAck (.rd a.addr) (wordBytes v), sentAck (.ptr a.addr p) []]).succeed 0x10#8 (.word v))) ∧
    (d.mode = .continuous →
      ∃ os e, exec (.readRegister 1) s = .next ({ s.served a { d with ptr := .config } 2 1
          [sentAck (.rd a.addr) (wordBytes (BitVec.ofBool os ++ d.cfg)), sentAck (.ptr a.addr .config) []] with
            env := e }.succeed 0x10#8 (.word (BitVec.ofBool os ++ d.cfg))) ∧
        ∀ b rest, s.env.osReads = b :: rest → os = b)

/-- `writeRegister` of a threshold or of Config on an acknowledging bus: one WR frame; a Config write also acts on
converter and comparator and is committed to the cache with its gain (R80, R83, R92, R105, R124). -/
def Obligations.WriteRegisterStoresTheValue : Prop :=
  ∀ (s : State) (a : Strap) (d : Device) (v : Word), s.Serves a d → s.env.acks 1 →
    exec (.writeRegister 2 v) s = .next ((s.served a { d with ptr := .low, low := v } 1 0
      [sentAck (.wr a.addr .low v) []]).succeed 0x11#8 .unit) ∧
    exec (.writeRegister 3 v) s = .next ((s.served a { d with ptr := .high, high := v } 1 0
      [sentAck (.wr a.addr .high v) []]).succeed 0x11#8 .unit) ∧
    exec (.writeRegister 1 v) s = .next ({ s.served a
      { d with ptr := .config, cfg := v.extractLsb' 0 15, mode := modeAfterWrite v d.mode, fresh := false, cnt := 0,
               alert := false } 1 0 [sentAck (.wr a.addr .config v) []] with
        handle := { s.handle with cache := some v, gain := some (fieldsOf v).gain } }.succeed 0x11#8 .unit)

/-- A word written to Config and read back by the command issued next agrees with it in bits 14:0, whatever the bus and
the converter do meanwhile: R93's law, with no device reset in this model, and with no frame of another caller between
(R151, R168). -/
def Obligations.ConfigReadsBackAsWritten : Prop :=
  ∀ (s t u : State) (v r : Word) (sent : List Transfer),
    exec (.writeRegister 1 v) s = .next t → t.host.report = some { opcode := some 0x11#8, answer := .done .unit } →
    exec (.readRegister 1) t.gap = .next u → u.host.report = some { opcode := some 0x10#8, answer := .done (.word r) } →
    SentBetween s u sent → (∀ x ∈ sent, x.sender = .controller) →
    r &&& 0x7FFF#16 = v &&& 0x7FFF#16

/-! ### Configuration word -/

/-- `buildConfig` on legal indices packs each field into its bits (R55 to R62, R87). -/
def Obligations.BuildConfigPacksTheFields : Prop :=
  ∀ (s : State) (c g m r cm p l q : Nat) (t : Bool),
    c < 8 → g < 6 → m < 2 → r < 8 → cm < 2 → p < 2 → l < 2 → (q = 0 ∨ q = 1 ∨ q = 2 ∨ q = 4) →
    ∃ w, exec (.buildConfig c g m r cm p l q t) s = .next (s.succeed 0x20#8 (.word w)) ∧
      w.getLsbD 15 = t ∧ w.extractLsb' 12 3 = BitVec.ofNat 3 c ∧ w.extractLsb' 9 3 = BitVec.ofNat 3 g ∧
      w.getLsbD 8 = decide (m = 1) ∧ w.extractLsb' 5 3 = BitVec.ofNat 3 r ∧ w.getLsbD 4 = decide (cm = 1) ∧
      w.getLsbD 3 = decide (p = 1) ∧ w.getLsbD 2 = decide (l = 1) ∧
      (q = 1 → w.extractLsb' 0 2 = 0b00#2) ∧ (q = 2 → w.extractLsb' 0 2 = 0b01#2) ∧
      (q = 4 → w.extractLsb' 0 2 = 0b10#2) ∧ (q = 0 → w.extractLsb' 0 2 = 0b11#2)

/-- `decodeConfig` reads every field from its bits, by the tables of R56, R57 and R59 for the three-bit codes (the inputs
of each channel with them); PGA codes 0b110 and 0b111 read as FS_0_256 (R57, R58, R60, R61, R88). -/
def Obligations.DecodeConfigReadsTheFields : Prop :=
  ∀ (s : State) (w : Word),
    ∃ f, exec (.decodeConfig w) s = .next (s.succeed 0x21#8 (.fields f)) ∧
      f.trigger = w.getLsbD 15 ∧ f.channel.code = w.extractLsb' 12 3 ∧
      [.ain0Ain1, .ain0Ain3, .ain1Ain3, .ain2Ain3, .ain0Gnd, .ain1Gnd, .ain2Gnd, .ain3Gnd][(w.extractLsb' 12 3).toNat]?
        = some f.channel ∧
      [(Pin.ain0, Pin.ain1), (.ain0, .ain3), (.ain1, .ain3), (.ain2, .ain3), (.ain0, .gnd), (.ain1, .gnd), (.ain2, .gnd),
        (.ain3, .gnd)][(w.extractLsb' 12 3).toNat]? = some f.channel.pins ∧
      [.fs6144, .fs4096, .fs2048, .fs1024, .fs0512, .fs0256, .fs0256, .fs0256][(w.extractLsb' 9 3).toNat]?
        = some f.gain ∧
      [.sps8, .sps16, .sps32, .sps64, .sps128, .sps250, .sps475, .sps860][(w.extractLsb' 5 3).toNat]?
        = some f.dataRate ∧
      f.gain.code = (if (w.extractLsb' 9 3).toNat < 5 then w.extractLsb' 9 3 else 0b101#3) ∧
      (f.mode = .singleShot ↔ w.getLsbD 8 = true) ∧ f.dataRate.code = w.extractLsb' 5 3 ∧
      (f.compareMode = .window ↔ w.getLsbD 4 = true) ∧ (f.polarity = .activeHigh ↔ w.getLsbD 3 = true) ∧
      (f.latch = .latching ↔ w.getLsbD 2 = true) ∧ f.queue.code = w.extractLsb' 0 2 ∧
      [.one, .two, .four, .disabled][(w.extractLsb' 0 2).toNat]? = some f.queue

/-- The three round-trip laws of the configuration word. The first is R89's own; the second and third R89 marks as
derived from R87 and R88. -/
def Obligations.ConfigWordRoundTrips : Prop :=
  (∀ f : ConfigFields, fieldsOf (buildWord f) = f) ∧
  (∀ w : Word, (w.extractLsb' 9 3).toNat ≤ 0b101 → buildWord (fieldsOf w) = w) ∧
  (∀ w : Word, 0b110 ≤ (w.extractLsb' 9 3).toNat →
    buildWord (fieldsOf w) = w.extractLsb' 12 4 ++ 0b101#3 ++ w.extractLsb' 0 9)

/-- After two acknowledged Config writes the MUX field the device holds, and reads back, is the second one's, whatever
the other agents do between the two writes. R94 marks this law as derived from R76 and R91. -/
def Obligations.ChannelOfTheLastWriteOnly : Prop :=
  ∀ (s t u : State) (vA vB : Word) (steps : List AgentStep),
    exec (.writeRegister 1 vA) s = .next t → t.host.report = some { opcode := some 0x11#8, answer := .done .unit } →
    exec (.writeRegister 1 vB) (t.agentSteps steps) = .next u →
    u.host.report = some { opcode := some 0x11#8, answer := .done .unit } →
    ∃ d, u.devices.at u.handle.addr = some d ∧
      ∀ os, (d.value os .config).extractLsb' 12 3 = (fieldsOf vB).channel.code

/-- R86, R91: the word each command writes has OS = 1 for `startSingleShot` only, its own fields as named, and every
other field of the base word. -/
def Obligations.CommandsMergeIntoTheBaseWord : Prop :=
  ∀ (base : Word) (c : Channel) (g : Gain) (r : DataRate) (k : CompareArgs),
    fieldsOf (singleShotWord base c g) =
      { fieldsOf base with trigger := true, channel := c, gain := g, mode := .singleShot } ∧
    fieldsOf (continuousWord base c g r) =
      { fieldsOf base with trigger := false, channel := c, gain := g, mode := .continuous, dataRate := r } ∧
    fieldsOf (compareWord base k) =
      { fieldsOf base with trigger := false, channel := k.channel, gain := k.gain, compareMode := k.compareMode,
                           polarity := k.polarity, latch := k.latch, queue := k.queue } ∧
    fieldsOf (disabledWord base) = { fieldsOf base with trigger := false, queue := .disabled }

/-! ### Scaler -/

/-- `scaleToVoltage` returns `(f64(raw) ⊗ fullScale) ⊘ 32768.0` for the gain of its index; −32768 gives exactly
−fullScale, 0 gives +0.0, and the result for the opposite code is the opposite value; an index outside 0 to 5 is a
ConfigError (R95, R97). -/
def Obligations.ScaleToVoltageFollowsTheLaw : Prop :=
  ∀ (s : State) (raw : Word),
    (∀ (i : Nat) (g : Gain) (fs : F64),
      (i, g, fs) ∈ [(0, Gain.fs6144, 0x40189374BC6A7EFA#64), (1, .fs4096, 0x4010624DD2F1A9FC#64),
        (2, .fs2048, 0x4000624DD2F1A9FC#64), (3, .fs1024, 0x3FF0624DD2F1A9FC#64), (4, .fs0512, 0x3FE0624DD2F1A9FC#64),
        (5, .fs0256, 0x3FD0624DD2F1A9FC#64)] →
      exec (.scaleToVoltage raw i) s = .next (s.succeed 0x22#8 (.volts (rawToVolts raw g))) ∧
      rawToVolts raw g = Fp.div (Fp.mul (Fp.ofInt raw.toInt) fs) 0x40E0000000000000#64 ∧
      (raw = 0x8000#16 → rawToVolts raw g = fs ||| 0x8000000000000000#64) ∧
      (raw = 0#16 → rawToVolts raw g = 0#64) ∧
      (raw ≠ 0#16 → raw ≠ 0x8000#16 → rawToVolts (-raw) g = rawToVolts raw g ^^^ 0x8000000000000000#64)) ∧
    (∀ i, 6 ≤ i → exec (.scaleToVoltage raw i) s = .next (s.raise 0x22#8 (.config .gain)))

/-- R99: for a fixed gain, `scaleToVoltage` is strictly increasing in `raw`. -/
def Obligations.ScalingIsStrictlyIncreasing : Prop :=
  ∀ (g : Gain) (r1 r2 : Word), r1.toInt < r2.toInt →
    Fp.isFinite (rawToVolts r1 g) = true ∧ Fp.isFinite (rawToVolts r2 g) = true ∧
    Fp.gt (rawToVolts r2 g) (rawToVolts r1 g) = true

/-- `voltsToCode` gives back every code that `scaleToVoltage` has scaled, both ends of the range included
(R97, R101, D24). -/
def Obligations.VoltsToCodeUndoesScaling : Prop :=
  ∀ (s : State) (raw : Word) (i : Nat) (g : Gain), checkGain i = .ok g →
    exec (.voltsToCode (rawToVolts raw g) i) s = .next (s.succeed 0x23#8 (.code raw))

/-- `voltsToCode` completes on every finite voltage with a legal gain index; both full scales saturate, both zeros give
0; a bad gain index is a ConfigError that records the gain, whatever the voltage, as R101's pseudocode checks the gain
first, and else a non-finite voltage one that records the voltage (R101, R140; for both bad at once, log entry 29). -/
def Obligations.VoltsToCodeCompletesOnFiniteVolts : Prop :=
  ∀ (s : State) (v : F64) (i : Nat),
    (∀ g, checkGain i = .ok g → Fp.isFinite v = true →
      ∃ c, exec (.voltsToCode v i) s = .next (s.succeed 0x23#8 (.code c)) ∧
        (∀ q, q = Fp.div (Fp.mul v 0x40E0000000000000#64) (fullScale g) → Fp.isFinite q = true →
          c.toInt = min 32767 (max (-32768) (Fp.roundHalfAway q))) ∧
        (v = fullScale g → c = 0x7FFF#16) ∧ (v = fullScale g ||| 0x8000000000000000#64 → c = 0x8000#16) ∧
        (v = 0#64 ∨ v = 0x8000000000000000#64 → c = 0#16)) ∧
    (6 ≤ i → exec (.voltsToCode v i) s = .next (s.raise 0x23#8 (.config .gain))) ∧
    (i < 6 → Fp.isFinite v = false → exec (.voltsToCode v i) s = .next (s.raise 0x23#8 (.config .volts)))

/-- R59, R66, R112, R116, R135, R170: the rate of each DR code and data-rate index, the settling delays, the poll bound and
the alert bound, for any margin and interval and for the block's own, whose intervals are positive (R7). -/
def Obligations.RateTableAndBounds : Prop :=
  [DataRate.sps8, .sps16, .sps32, .sps64, .sps128, .sps250, .sps475, .sps860].map DataRate.sps
    = [8, 16, 32, 64, 128, 250, 475, 860] ∧
  [DataRate.sps8, .sps16, .sps32, .sps64, .sps128, .sps250, .sps475, .sps860].map settleMs
    = [125, 63, 32, 16, 8, 4, 3, 2] ∧
  [0b000#3, 0b001#3, 0b010#3, 0b011#3, 0b100#3, 0b101#3, 0b110#3, 0b111#3].map (fun c => (DataRate.ofCode c).sps)
    = [8, 16, 32, 64, 128, 250, 475, 860] ∧
  (∀ (i : Nat) (r : DataRate), checkDataRate i = .ok r ↔
    [DataRate.sps8, .sps16, .sps32, .sps64, .sps128, .sps250, .sps475, .sps860][i]? = some r) ∧
  (∀ c : BitVec 3, (DataRate.ofCode c).code = c) ∧
  (∀ a b q : Nat, 0 < b → (ceilDiv a b ≤ q ↔ a ≤ q * b)) ∧
  (∀ (margin interval : Nat) (r : DataRate), 0 < interval →
    maxPollsFor margin interval r = 1 + ceilDiv (settleMs r + margin) interval ∧ 2 ≤ maxPollsFor margin interval r) ∧
  (∀ (interval k : Nat) (r : DataRate), 0 < interval →
    alertPollsFor interval k r = 1 + ceilDiv (k * 1000) (r.sps * interval) ∧ alertPollsFor interval 0 r = 1) ∧
  0 < Config.pollIntervalMs ∧ 0 < Config.alertPollIntervalMs ∧
  (∀ r : DataRate, maxPolls r = maxPollsFor Config.pollMarginMs Config.pollIntervalMs r) ∧
  (∀ (k : Nat) (r : DataRate), alertPolls k r = alertPollsFor Config.alertPollIntervalMs k r)

/-! ### Conversion engine -/

/-- `init` makes a live handle at 0x48 + address with an empty cache, an Idle engine and a clear line, and leaves every
device; an index outside 0 to 3 is a ConfigError (R109, R155). `deinit` disarms the line and kills the handle; device,
cache and flag stay (R110). -/
def Obligations.InitAndDeinitMakeAndKillTheHandle : Prop :=
  (∀ (s : State) (i : Nat), i < 4 →
    exec (.init i) s = .next ({ s with
        handle := { addr := BitVec.ofNat 7 (0x48 + i), cache := none, gain := none, engine := .idle, live := true }
        line := { armed := false, edge := false, flag := false } }.succeed 0x01#8
          (.handle (BitVec.ofNat 7 (0x48 + i))))) ∧
  (∀ (s : State) (i : Nat), 4 ≤ i → exec (.init i) s = .next (s.raise 0x01#8 (.config .address))) ∧
  (∀ s : State, s.handle.live = true →
    exec .deinit s = .next ({ s with
      handle := { s.handle with live := false }, line := { s.line with armed := false } }.succeed 0x02#8 .unit)) ∧
  (∀ s : State, s.handle.live = false → exec .deinit s = .refused .deadHandle)

/-- With no live handle every host command but `init` and the four pure ones is refused, whatever its operands
(R110, R156). While a single-shot conversion is being waited for, the commands that need a free engine are refused, and
`pollUntilReady` is refused in every other engine state, before its operand is looked at (R108, R143). -/
def Obligations.LivenessAndEngineGateCommands : Prop :=
  ∀ s : State,
    (s.handle.live = false → ∀ i : Instr,
      (∀ n, i ≠ .init n) → (∀ c g m r cm p l q t, i ≠ .buildConfig c g m r cm p l q t) → (∀ w, i ≠ .decodeConfig w) →
      (∀ w g, i ≠ .scaleToVoltage w g) → (∀ v g, i ≠ .voltsToCode v g) →
      (∀ a p, i ≠ .ptr a p) → (∀ a v, i ≠ .wrConfig a v) → (∀ a v, i ≠ .wrLoThresh a v) →
      (∀ a v, i ≠ .wrHiThresh a v) → (∀ a, i ≠ .rd a) → ∃ r, exec i s = .refused r) ∧
    (s.handle.engine = .converting → ∀ (c g r cm p l q k : Nat) (lo hi : F64),
      exec (.startSingleShot c g) s = .refused .engineBusy ∧ exec (.readConversion g) s = .refused .engineBusy ∧
      exec (.startContinuous c g r) s = .refused .engineBusy ∧
      exec (.enableComparator c g cm p l q) s = .refused .engineBusy ∧
      exec (.armComparator c g cm p l q lo hi) s = .refused .engineBusy ∧
      exec .disableComparator s = .refused .engineBusy ∧ exec (.waitForAlert k g) s = .refused .engineBusy) ∧
    (s.handle.engine ≠ .converting → ∀ r : Nat, exec (.pollUntilReady r) s = .refused .noConversion)

/-- `startSingleShot` on an acknowledging bus: one Config write of the base word with OS = 1, the channel, the gain and
MODE = 1; the cache and gain are committed and the engine is Converting; a device in PowerDown starts one conversion
(R91, R92, R105, R111). -/
def Obligations.StartSingleShotTriggersOneConversion : Prop :=
  ∀ (s : State) (a : Strap) (d : Device) (ci gi : Nat) (c : Channel) (g : Gain) (w : Word),
    s.Serves a d → (s.handle.engine = .idle ∨ s.handle.engine = .ready) → s.env.acks 1 →
    checkChannel ci = .ok c → checkGain gi = .ok g →
    w = singleShotWord (s.handle.cache.getD 0x8583#16) c g →
    exec (.startSingleShot ci gi) s = .next ({ s.served a
      { d with ptr := .config, cfg := w.extractLsb' 0 15, mode := .singleConverting, fresh := false, cnt := 0,
               alert := false } 1 0 [sentAck (.wr a.addr .config w) []] with
        handle := { s.handle with cache := some w, gain := some g, engine := .converting } }.succeed 0x30#8 .unit)

/-- `startContinuous` on an acknowledging bus: one Config write with OS = 0, MODE = 0, the channel, gain and rate; the
device free-runs and the engine is Idle (R91, R92, R105, R115). -/
def Obligations.StartContinuousFreeRuns : Prop :=
  ∀ (s : State) (a : Strap) (d : Device) (ci gi ri : Nat) (c : Channel) (g : Gain) (r : DataRate) (w : Word),
    s.Serves a d → (s.handle.engine = .idle ∨ s.handle.engine = .ready) → s.env.acks 1 →
    checkChannel ci = .ok c → checkGain gi = .ok g → checkDataRate ri = .ok r →
    w = continuousWord (s.handle.cache.getD 0x8583#16) c g r →
    exec (.startContinuous ci gi ri) s = .next ({ s.served a
      { d with ptr := .config, cfg := w.extractLsb' 0 15, mode := .continuous, fresh := false, cnt := 0,
               alert := false } 1 0 [sentAck (.wr a.addr .config w) []] with
        handle := { s.handle with cache := some w, gain := some g, engine := .idle } }.succeed 0x33#8 .unit)

/-- `pollUntilReady` on a device that has finished returns Ready at its first poll (R104, R113). -/
def Obligations.PollSeesAFinishedConversion : Prop :=
  ∀ (s : State) (a : Strap) (d : Device) (ri : Nat),
    s.Serves a d → s.handle.engine = .converting → d.mode = .powerDown → ri < 8 → s.env.acks 2 → s.env.quiet 1 →
    exec (.pollUntilReady ri) s = .next ({ s.served a { d with ptr := .config } 2 1
      [sentAck (.rd a.addr) (wordBytes (1#1 ++ d.cfg)), sentAck (.ptr a.addr .config) []] with
        handle := { s.handle with engine := .ready } }.succeed 0x31#8 .ready)

/-- A device that never completes makes `pollUntilReady` end in ConversionTimeoutError after exactly `maxPolls` polls,
with the engine Idle (R112, R113). -/
def Obligations.PollTimesOutOnASilentDevice : Prop :=
  ∀ (s : State) (a : Strap) (d : Device) (ri : Nat) (r : DataRate),
    s.Serves a d → s.handle.engine = .converting → d.mode = .singleConverting → checkDataRate ri = .ok r →
    s.env.acks (2 * maxPolls r) → s.env.quiet (2 * maxPolls r) →
    ∃ t sent, exec (.pollUntilReady ri) s = .next t ∧
      t.host.report = some { opcode := some 0x31#8, answer := .failed (.conversionTimeout r (maxPolls r)) none } ∧
      t.handle = { s.handle with engine := .idle } ∧ t.devices = s.devices.set a (some { d with ptr := .config }) ∧
      t.line = s.line ∧ SentBetween s t sent ∧ sent.length = 2 * maxPolls r

/-- Whatever the bus and the other agents do, `pollUntilReady` and `waitForAlert` end, and the controller sends at most
`2 · maxPolls` and 2 frames (R113, R136, R171). -/
def Obligations.WaitingCommandsAreBounded : Prop :=
  ∀ s : State, s.handle.live = true →
    (∀ (ri : Nat) (r : DataRate), s.handle.engine = .converting → checkDataRate ri = .ok r →
      ∃ t sent, exec (.pollUntilReady ri) s = .next t ∧ SentBetween s t sent ∧
        (sent.filter fun x => x.sender = .controller).length ≤ 2 * maxPolls r) ∧
    (∀ k gi, s.handle.engine = .idle ∨ s.handle.engine = .ready →
      ∃ t sent, exec (.waitForAlert k gi) s = .next t ∧ SentBetween s t sent ∧
        (sent.filter fun x => x.sender = .controller).length ≤ 2)

/-- `readConversion` on an acknowledging bus returns the register's code and its voltage under the operand's gain,
clears a latched alert, and leaves the engine Idle (R100, R114, R123). -/
def Obligations.ReadConversionReturnsTheSample : Prop :=
  ∀ (s : State) (a : Strap) (d : Device) (gi : Nat) (g : Gain),
    s.Serves a d → (s.handle.engine = .idle ∨ s.handle.engine = .ready) → checkGain gi = .ok g →
    s.env.acks 2 → s.env.quiet 1 →
    exec (.readConversion gi) s = .next ({ s.served a
      { d with ptr := .conversion, alert := if d.cfg.getLsbD 2 = true then false else d.alert } 2 1
      [sentAck (.rd a.addr) (wordBytes d.conversion), sentAck (.ptr a.addr .conversion) []] with
        handle := { s.handle with engine := .idle } }.succeed 0x32#8
          (.sample d.conversion (rawToVolts d.conversion g)))

/-- `delay` changes nothing and returns (R117, ASSUME_SETTLE_SUFFICIENT false). Under the assumption a delay at least as
long as the settling delay of the cached DR, on a converting device with no fresh sample, holds, and once it holds it
goes on until a sample is fresh; a shorter delay, one on a device in PowerDown, or one with a fresh sample returns
(R117, R159). That a hold is a next state with `host.holding` set, in which the delay has not returned, and that the
cached DR is that of `base(h)`, are log entry 12's reading. -/
def Obligations.DelayReturnsOrHolds : Prop :=
  (∀ (s : State) (ms : Nat), s.handle.live = true → s.host.holding = false →
    exec (.delay ms) s = .next (s.succeed 0x34#8 .unit)) ∧
  (∀ (s : State) (a : Strap) (d : Device) (ms settle : Nat) (assume : Bool), s.Serves a d →
    settle = settleMs (fieldsOf (s.handle.cache.getD 0x8583#16)).dataRate →
    (s.host.holding = false → d.mode ≠ .powerDown → d.fresh = false → settle ≤ ms →
      delayWith true ms s = .next { s with host := { s.host with holding := true } }) ∧
    (s.host.holding = true → d.fresh = false → delayWith assume ms s = .next s) ∧
    (s.host.holding = false → ms < settle → delayWith assume ms s = .next (s.succeed 0x34#8 .unit)) ∧
    (s.host.holding = false → d.mode = .powerDown → delayWith assume ms s = .next (s.succeed 0x34#8 .unit)) ∧
    (d.fresh = true → delayWith assume ms s = .next (s.succeed 0x34#8 .unit)))

/-- R118: trigger, poll, read, delay, with the device's conversion of sample `x` before the first poll or in the gap
`j` of the poll loop, so that `m` polls read OS = 0 before the one that reads OS = 1. On a bus that acknowledges every
frame, from PowerDown, where `m` is within the poll bound, the cycle ends with the engine Idle and returns `x` and its
voltage; the delay changes nothing. That a poll's two frames and the next poll are each parted by a gap is log entry
27. -/
def Obligations.SingleShotReadCycle : Prop :=
  ∀ (s : State) (a : Strap) (d : Device) (ci gi ri ms : Nat) (c : Channel) (g : Gain) (r : DataRate) (w x : Word)
    (al : Bool) (cn m : Nat) (before : List AgentStep),
    s.Serves a d → (s.handle.engine = .idle ∨ s.handle.engine = .ready) → d.mode = .powerDown →
    checkChannel ci = .ok c → checkGain gi = .ok g → checkDataRate ri = .ok r → m < maxPolls r →
    w = singleShotWord (s.handle.cache.getD 0x8583#16) c g → s.env.acks (2 * m + 5) →
    (before = [.convert a x al cn] ∧ m = 0 ∧ s.env.quiet 2 ∨
      before = [] ∧ ∃ j rest, m = (j + 1) / 2 ∧
        s.env.gaps = List.replicate j [] ++ [.convert a x al cn] :: [] :: [] :: rest) →
    ∃ t u v, exec (.startSingleShot ci gi) s = .next t ∧
      exec (.pollUntilReady ri) (t.agentSteps before) = .next u ∧
      u.host.report = some { opcode := some 0x31#8, answer := .done .ready } ∧ u.handle.engine = .ready ∧
      SentBetween t u (pollFrames a (1#1 ++ w.extractLsb' 0 15) ++
        (List.replicate m (pollFrames a (0#1 ++ w.extractLsb' 0 15))).flatten) ∧
      exec (.readConversion gi) u = .next v ∧
      exec (.delay ms) v = .next (v.succeed 0x34#8 .unit) ∧
      v.host.report = some { opcode := some 0x32#8, answer := .done (.sample x (rawToVolts x g)) } ∧
      v.handle.engine = .idle ∧ v.handle.gain = some g ∧
      ∃ d', v.devices.get a = some d' ∧ d'.conversion = x ∧ d'.mode = .powerDown ∧ d'.fresh = true

/-! ### Comparator, converter and interrupt line -/

/-- The conversion-complete step, where enabled, stores the sample, sets `fresh` and ends a single conversion; where not
enabled it changes nothing. The comparator: disabled, it is cleared; otherwise, but for the conversion-ready combination,
a trip counts up to the depth and anything else resets the count, the alert is set when the count reaches the depth, and
is cleared below or in range only when not latching (R106, R119, R120, R121). In Traditional mode a sample both above and
below, which only LowThreshold > HighThreshold allows, is a trip and clears nothing: the trip takes precedence (R121's
note, R167; log entry 28). -/
def Obligations.ConversionUpdatesTheComparator : Prop :=
  ∀ (s : State) (a : Strap) (d : Device) (x : Word) (al : Bool) (cn : Nat), s.devices.get a = some d →
    (d.mode = .powerDown → s.agentStep (.convert a x al cn) = s) ∧
    (d.mode ≠ .powerDown →
      ∃ d', (s.agentStep (.convert a x al cn)).devices = s.devices.set a (some d') ∧
        d'.conversion = x ∧ d'.fresh = true ∧ d'.cfg = d.cfg ∧ d'.low = d.low ∧ d'.high = d.high ∧ d'.ptr = d.ptr ∧
        (d.mode = .singleConverting → d'.mode = .powerDown) ∧ (d.mode = .continuous → d'.mode = .continuous) ∧
        (d.cfg.extractLsb' 0 2 = 0b11#2 → d'.cnt = 0 ∧ d'.alert = false) ∧
        (∀ n, (d.cfg.extractLsb' 0 2 = 0b00#2 ∧ n = 1 ∨ d.cfg.extractLsb' 0 2 = 0b01#2 ∧ n = 2 ∨
            d.cfg.extractLsb' 0 2 = 0b10#2 ∧ n = 4) →
          (d.high.msb = true ∧ d.low.msb = false → d'.cnt ≤ n) ∧
          (¬ (d.high.msb = true ∧ d.low.msb = false) →
            ∀ above below trip, (above ↔ d.high.toInt < x.toInt) → (below ↔ x.toInt < d.low.toInt) →
              (trip ↔ above ∨ d.cfg.getLsbD 4 = true ∧ below) →
              (trip → d'.cnt = min (d.cnt + 1) n) ∧ (¬ trip → d'.cnt = 0) ∧
              (d'.cnt = n → d'.alert = true) ∧
              (d'.cnt ≠ n → d.cfg.getLsbD 2 = true → d'.alert = d.alert) ∧
              (d'.cnt ≠ n → d.cfg.getLsbD 2 = false → d.cfg.getLsbD 4 = true → ¬ above → ¬ below → d'.alert = false) ∧
              (d'.cnt ≠ n → d.cfg.getLsbD 2 = false → d.cfg.getLsbD 4 = true → above ∨ below → d'.alert = d.alert) ∧
              (d'.cnt ≠ n → d.cfg.getLsbD 2 = false → d.cfg.getLsbD 4 = false → below → ¬ above → d'.alert = false) ∧
              (d'.cnt ≠ n → d.cfg.getLsbD 2 = false → d.cfg.getLsbD 4 = false → above ∨ ¬ below →
                d'.alert = d.alert))))

/-- In latching mode an asserted alert outlasts every conversion and every line step, whatever the samples: only a frame,
a Conversion read or a Config write, clears it (R121, R123). The conversion-ready combination, whose alert is a draw, is
excluded. -/
def Obligations.LatchedAlertPersists : Prop :=
  ∀ (s : State) (a : Strap) (d : Device) (steps : List AgentStep),
    s.devices.get a = some d → d.cfg.extractLsb' 0 2 ≠ 0b11#2 → d.cfg.getLsbD 2 = true → d.alert = true →
    ¬ (d.high.msb = true ∧ d.low.msb = false) → (∀ f, AgentStep.foreign f ∉ steps) →
    (∀ k w, AgentStep.controller k w ∉ steps) →
    ∃ d', (s.agentSteps steps).devices.get a = some d' ∧ d'.alert = true ∧ d'.cfg = d.cfg

/-- R126: an asserting edge of a device is captured by every session's line that is armed and whose handle is at that
device's address, and changes no other line; a conversion that makes no asserting edge changes none. R127: a line's own
step moves a captured edge into the flag, the running session's and every other's, and is not enabled otherwise. That a
line watches its handle's device is log entry 8. -/
def Obligations.AlertEdgeIsCapturedAndDelivered : Prop :=
  (∀ (s t : State) (a : Strap) (d d' : Device) (x : Word) (al : Bool) (cn : Nat),
    s.devices.get a = some d → d.mode ≠ .powerDown → t = s.agentStep (.convert a x al cn) →
    t.devices.get a = some d' →
    (d.asserted = false → d'.asserted = true →
      (s.handle.addr = a.addr → s.line.armed = true → t.line = { s.line with edge := true }) ∧
      (s.handle.addr ≠ a.addr ∨ s.line.armed = false → t.line = s.line) ∧
      t.others.length = s.others.length ∧
      ∀ (k : Nat) (p : Session), s.others[k]? = some p →
        (p.handle.addr = a.addr → p.line.armed = true →
          t.others[k]? = some { p with line := { p.line with edge := true } }) ∧
        (p.handle.addr ≠ a.addr ∨ p.line.armed = false → t.others[k]? = some p)) ∧
    (d.asserted = true ∨ d'.asserted = false → t.line = s.line ∧ t.others = s.others)) ∧
  (∀ s : State,
    (s.line.edge = true → s.line.armed = true →
      s.agentStep .deliver = { s with line := { s.line with flag := true, edge := false } }) ∧
    (s.line.edge = false ∨ s.line.armed = false → s.agentStep .deliver = s) ∧
    ∀ (k : Nat) (p : Session), s.others[k]? = some p →
      (p.line.edge = true → p.line.armed = true →
        s.agentStep (.deliverOther k) =
          { s with others := s.others.set k { p with line := { p.line with flag := true, edge := false } } }) ∧
      (p.line.edge = false ∨ p.line.armed = false → s.agentStep (.deliverOther k) = s))

/-- `setThresholds` on an acknowledging bus writes low, then high, in that order and unchecked. If the first frame fails
nothing else is sent; if the second fails the low threshold stays written; either way the failed frame took no effect or
its full effect (R73, R128). -/
def Obligations.SetThresholdsWritesBoth : Prop :=
  ∀ (s : State) (a : Strap) (d : Device) (lo hi : Word), s.Serves a d →
    (s.env.acks 2 → s.env.quiet 1 →
      exec (.setThresholds lo hi) s = .next ((s.served a { d with ptr := .high, low := lo, high := hi } 2 1
        [sentAck (.wr a.addr .high hi) [], sentAck (.wr a.addr .low lo) []]).succeed 0x40#8 .unit)) ∧
    (∀ ans how took rest, FailsAs ans how took → s.env.frames = ans :: rest →
      exec (.setThresholds lo hi) s = .next ((s.served a (if took then { d with ptr := .low, low := lo } else d) 1 0
        [sentFail (.wr a.addr .low lo) how]).raise 0x40#8 (.transport how .wr .low))) ∧
    (∀ ans how took rest, FailsAs ans how took → s.env.frames = .ack :: ans :: rest → s.env.quiet 1 →
      exec (.setThresholds lo hi) s = .next ((s.served a
        (if took then { d with ptr := .high, low := lo, high := hi } else { d with ptr := .low, low := lo }) 2 1
        [sentFail (.wr a.addr .high hi) how, sentAck (.wr a.addr .low lo) []]).raise 0x40#8
          (.transport how .wr .high)))

/-- `enableComparator` on an acknowledging bus: one Config write with OS = 0, the named fields, and MODE and DR of the
base word; the comparator starts clear (R91, R124, R129). -/
def Obligations.EnableComparatorWritesItsFields : Prop :=
  ∀ (s : State) (a : Strap) (d : Device) (ci gi cm p l q : Nat) (k : CompareArgs) (w : Word),
    s.Serves a d → (s.handle.engine = .idle ∨ s.handle.engine = .ready) → s.env.acks 1 →
    checkCompareArgs ci gi cm p l q = .ok k → w = compareWord (s.handle.cache.getD 0x8583#16) k →
    exec (.enableComparator ci gi cm p l q) s = .next ({ s.served a
      { d with ptr := .config, cfg := w.extractLsb' 0 15, mode := modeAfterWrite w d.mode, fresh := false, cnt := 0,
               alert := false } 1 0 [sentAck (.wr a.addr .config w) []] with
        handle := { s.handle with cache := some w, gain := some k.gain, engine := .idle } }.succeed 0x41#8 .unit)

/-- `armComparator` on an acknowledging bus writes the codes of its two voltages and then Config, three frames in
order (R130). -/
def Obligations.ArmComparatorWritesThresholdsThenConfig : Prop :=
  ∀ (s : State) (a : Strap) (d : Device) (ci gi cm p l q : Nat) (k : CompareArgs) (low high : F64) (lo hi w : Word),
    s.Serves a d → (s.handle.engine = .idle ∨ s.handle.engine = .ready) → s.env.acks 3 → s.env.quiet 2 →
    checkCompareArgs ci gi cm p l q = .ok k → Fp.isFinite low = true → Fp.isFinite high = true →
    Fp.gt low high = false → lo = voltsCode low k.gain → hi = voltsCode high k.gain →
    w = compareWord (s.handle.cache.getD 0x8583#16) k →
    exec (.armComparator ci gi cm p l q low high) s = .next ({ s.served a
      { d with ptr := .config, low := lo, high := hi, cfg := w.extractLsb' 0 15, mode := modeAfterWrite w d.mode,
               fresh := false, cnt := 0, alert := false } 3 2
      [sentAck (.wr a.addr .config w) [], sentAck (.wr a.addr .high hi) [], sentAck (.wr a.addr .low lo) []] with
        handle := { s.handle with cache := some w, gain := some k.gain, engine := .idle } }.succeed 0x42#8 .unit)

/-- `armComparator` with finite voltages and low above high is a ConfigError, in both comparator modes, and so is a NaN or
an infinity as either voltage, with no frame and no other change (R130, R140). That the error records `volts` for both
voltages is log entry 24's choice. -/
def Obligations.InvertedThresholdsAreRejected : Prop :=
  ∀ (s : State) (ci gi cm p l q : Nat) (k : CompareArgs) (low high : F64),
    s.handle.live = true → (s.handle.engine = .idle ∨ s.handle.engine = .ready) →
    checkCompareArgs ci gi cm p l q = .ok k →
    (Fp.isFinite low = true → Fp.isFinite high = true → Fp.gt low high = true →
      exec (.armComparator ci gi cm p l q low high) s = .next (s.raise 0x42#8 (.config .thresholdOrder))) ∧
    (Fp.isFinite low = false ∨ Fp.isFinite high = false →
      exec (.armComparator ci gi cm p l q low high) s = .next (s.raise 0x42#8 (.config .volts)))

/-- `disableComparator` on an acknowledging bus: one Config write of the base word with OS = 0 and COMP_QUE = 0b11; the
pin is high-impedance and the engine unchanged (R91, R124, R131). -/
def Obligations.DisableComparatorReleasesThePin : Prop :=
  ∀ (s : State) (a : Strap) (d : Device) (w : Word),
    s.Serves a d → (s.handle.engine = .idle ∨ s.handle.engine = .ready) → s.env.acks 1 →
    w = disabledWord (s.handle.cache.getD 0x8583#16) →
    ∃ d', exec .disableComparator s = .next ({ s.served a d' 1 0 [sentAck (.wr a.addr .config w) []] with
        handle := { s.handle with cache := some w, gain := some (fieldsOf w).gain } }.succeed 0x43#8 .unit) ∧
      d' = { d with ptr := .config, cfg := w.extractLsb' 0 15, mode := modeAfterWrite w d.mode, fresh := false,
                    cnt := 0, alert := false } ∧
      d'.pin = .highZ

/-- `armAlertLine`: where the collaborator arms, only `armed` changes. Where it fails, LineArmError is reported: alone
where no comparator is cached enabled; after a Config write with COMP_QUE = 0b11 where one is, with the TransportError of
that write, if it fails, recorded beside (R132, R143, R146; log entry 25). In an engine state that does not allow
`disableComparator` the unwind has no effect and LineArmError is reported all the same (log entry 11's reading). -/
def Obligations.ArmAlertLineArmsOrUnwinds : Prop :=
  ∀ (s : State) (arms : List Bool), s.handle.live = true →
    (s.env.arms = true :: arms →
      exec .armAlertLine s = .next ({ s with env := { s.env with arms }, line := { s.line with armed := true } }.succeed
        0x44#8 .unit)) ∧
    (s.env.arms = false :: arms →
      (∀ c, s.handle.cache = some c → c.extractLsb' 0 2 = 0b11#2) ∨
        (s.handle.engine = .converting ∨ s.handle.engine = .configuring) →
      exec .armAlertLine s = .next ({ s with env := { s.env with arms } }.raise 0x44#8 .lineArm)) ∧
    (∀ (a : Strap) (d d' : Device) (c w : Word), s.Serves a d → (s.handle.engine = .idle ∨ s.handle.engine = .ready) →
      s.env.arms = false :: arms → s.env.quiet 1 → s.handle.cache = some c → c.extractLsb' 0 2 ≠ 0b11#2 →
      w = disabledWord c →
      d' = { d with ptr := .config, cfg := w.extractLsb' 0 15, mode := modeAfterWrite w d.mode, fresh := false,
                    cnt := 0, alert := false } →
      d'.pin = .highZ ∧
      (s.env.acks 1 →
        exec .armAlertLine s = .next ({ s.served a d' 1 1 [sentAck (.wr a.addr .config w) []] with
          env := { s.env.after 1 1 with arms }
          handle := { s.handle with cache := some w, gain := some (fieldsOf w).gain } }.raise 0x44#8 .lineArm)) ∧
      (∀ ans how took rest, FailsAs ans how took → s.env.frames = ans :: rest →
        exec .armAlertLine s = .next ({ s.served a (if took then d' else d) 1 1
            [sentFail (.wr a.addr .config w) how] with
          env := { s.env.after 1 1 with arms } }.raiseBeside 0x44#8 .lineArm (some (.transport how .wr .config)))))

/-- R133, R134: `disarmAlertLine` clears `armed` and `edge` and keeps the flag; `clearAlertFlag` clears the flag alone. -/
def Obligations.DisarmAndClearTouchTheLineOnly : Prop :=
  ∀ s : State,
    (s.handle.live = true →
      exec .disarmAlertLine s = .next ({ s with
        line := { armed := false, edge := false, flag := s.line.flag } }.succeed 0x45#8 .unit) ∧
      exec .clearAlertFlag s = .next ({ s with
        line := { armed := s.line.armed, edge := s.line.edge, flag := false } }.succeed 0x46#8 .unit)) ∧
    (s.handle.live = false →
      exec .disarmAlertLine s = .refused .deadHandle ∧ exec .clearAlertFlag s = .refused .deadHandle)

/-- `waitForAlert` with the flag already set clears it and returns the Conversion register's code and voltage; the read
clears a latched alert, and the engine is Idle (R123, R136). -/
def Obligations.WaitForAlertReturnsTheSample : Prop :=
  ∀ (s : State) (a : Strap) (d : Device) (k gi : Nat) (g : Gain),
    s.Serves a d → (s.handle.engine = .idle ∨ s.handle.engine = .ready) → checkGain gi = .ok g → s.line.flag = true →
    s.env.acks 2 → s.env.quiet 3 →
    exec (.waitForAlert k gi) s = .next ({ s.served a
      { d with ptr := .conversion, alert := if d.cfg.getLsbD 2 = true then false else d.alert } 2 3
      [sentAck (.rd a.addr) (wordBytes d.conversion), sentAck (.ptr a.addr .conversion) []] with
        handle := { s.handle with engine := .idle }, line := { s.line with flag := false } }.succeed 0x47#8
          (.sample d.conversion (rawToVolts d.conversion g)))

/-- With no alert `waitForAlert` ends in AlertTimeoutError after exactly `alertPolls` looks, with no frame: of the
environment it uses one gap for the delay between each two looks, and nothing else (R135, R136; log entry 27).
The engine is Idle, as R108 says of every ending (log entry 10). -/
def Obligations.WaitForAlertTimesOut : Prop :=
  ∀ (s : State) (k gi n : Nat) (g : Gain),
    s.handle.live = true → (s.handle.engine = .idle ∨ s.handle.engine = .ready) → checkGain gi = .ok g →
    s.line.flag = false → n = alertPolls k (fieldsOf (s.handle.cache.getD 0x8583#16)).dataRate → s.env.quiet n →
    ∃ t, exec (.waitForAlert k gi) s = .next t ∧
      t.host.report = some { opcode := some 0x47#8, answer := .failed (.alertTimeout k n) none } ∧
      t.devices = s.devices ∧ t.line = s.line ∧ t.wire = s.wire ∧ t.handle = { s.handle with engine := .idle } ∧
      t.env = s.env.after 0 (n - 1)

/-- R137: with the comparator armed in Window mode, latching, depth 1, and the line armed, a sample outside the window
asserts the alert; once the line has delivered the edge, `waitForAlert` returns that sample and its read clears the
latch; a later sample inside the window makes no edge. That the line watches its handle's device is log entry 8. -/
def Obligations.WindowAlertReachesTheHost : Prop :=
  ∀ (s : State) (a : Strap) (d : Device) (x y : Word) (al al' : Bool) (cn cn' k gi : Nat) (g : Gain),
    s.Serves a d → d.mode = .continuous → d.cfg.extractLsb' 0 2 = 0b00#2 → d.cfg.getLsbD 2 = true →
    d.cfg.getLsbD 4 = true → d.alert = false → d.low.toInt ≤ y.toInt → y.toInt ≤ d.high.toInt →
    ¬ (d.high.msb = true ∧ d.low.msb = false) → (x.toInt < d.low.toInt ∨ d.high.toInt < x.toInt) →
    s.line.armed = true → (s.handle.engine = .idle ∨ s.handle.engine = .ready) → checkGain gi = .ok g →
    s.env.acks 2 → s.env.quiet 3 →
    ∃ t d', exec (.waitForAlert k gi) (s.agentSteps [.convert a x al cn, .deliver]) = .next t ∧
      t.host.report = some { opcode := some 0x47#8, answer := .done (.sample x (rawToVolts x g)) } ∧
      t.line = { armed := true, edge := false, flag := false } ∧
      t.devices.get a = some d' ∧ d'.alert = false ∧
      (t.agentStep (.convert a y al' cn')).line = t.line

/-! ### Whole-machine rules -/

/-- R140: a ConfigError is raised before any bus frame: no frame has crossed the bus, no device has changed, and of the
handle at most the engine. -/
def Obligations.ConfigErrorSendsNoFrame : Prop :=
  ∀ (i : Instr) (s t : State) (op : Option Byte) (what : Culprit) (b : Option HostError),
    exec i s = .next t → t.host.holding = false →
    t.host.report = some { opcode := op, answer := .failed (.config what) b } →
    t.wire = s.wire ∧ t.devices = s.devices ∧ t.line = s.line ∧ t.env = s.env ∧ t.others = s.others ∧
    t.handle = { s.handle with engine := t.handle.engine }

/-- R145, R84: a TransportError is reported of the last frame sent: the newest transfer is the controller's own, failed
that way, and carries the kind and the register recorded; no frame follows it. Of the handle it changes at most the
engine, as R108's error edges say: Idle after the failed frame of an acquisition, a poll, a Conversion read or
`enableComparator`'s write, also within `armComparator`; unchanged after the frames of the other commands and after
`armComparator`'s threshold writes. -/
def Obligations.TransportErrorIsTheLastFrame : Prop :=
  ∀ (i : Instr) (s t : State) (op : Option Byte) (how : BusFailure) (kind : FrameKind) (p : Reg)
    (b : Option HostError),
    exec i s = .next t → t.host.holding = false →
    t.host.report = some { opcode := op, answer := .failed (.transport how kind p) b } →
    ∃ f rest, t.wire = sentFail f how :: rest ∧ f.addr = s.handle.addr ∧
      (kind = .ptr → f = .ptr f.addr p) ∧ (kind = .rd → f = .rd f.addr) ∧
      (kind = .wr → ∃ r v, f = .wr f.addr r v ∧ r.toReg = p) ∧
      ((∃ c g, i = .startSingleShot c g) ∨ (∃ c g r, i = .startContinuous c g r) ∨
        (∃ c g cm q l n, i = .enableComparator c g cm q l n) ∨
        (p = .config ∧ ∃ c g cm q l n lo hi, i = .armComparator c g cm q l n lo hi) ∨
        (∃ r, i = .pollUntilReady r) ∨ (∃ g, i = .readConversion g) ∨ (∃ k g, i = .waitForAlert k g) →
        t.handle = { s.handle with engine := .idle }) ∧
      ((∃ r, i = .readRegister r) ∨ (∃ r v, i = .writeRegister r v) ∨ (∃ lo hi, i = .setThresholds lo hi) ∨
        i = .disableComparator ∨ (p ≠ .config ∧ ∃ c g cm q l n lo hi, i = .armComparator c g cm q l n lo hi) →
        t.handle = s.handle)

/-- R50, R92: the cache and gain change only by `init` and by an acknowledged Config write of this controller, to the
word written; in particular a failed write leaves both. -/
def Obligations.CacheFollowsAcknowledgedWrites : Prop :=
  ∀ (i : Instr) (s t : State) (sent : List Transfer),
    exec i s = .next t → (∀ n, i ≠ .init n) → SentBetween s t sent →
    (t.handle.cache = s.handle.cache ∧ t.handle.gain = s.handle.gain) ∨
    ∃ w, t.handle.cache = some w ∧ t.handle.gain = some (fieldsOf w).gain ∧
      sentAck (.wr s.handle.addr .config w) [] ∈ sent

/-- R168: the cache keeps agreeing with the device, with one handle, no failed write, no re-init and no other writer:
every command but `init` and a raw Config write keeps the agreement, if every write frame on the bus was this
controller's and acknowledged. -/
def Obligations.CacheKeepsAgreeingWithTheDevice : Prop :=
  ∀ (i : Instr) (s t : State) (sent : List Transfer),
    s.CacheAgrees → exec i s = .next t → (∀ n, i ≠ .init n) → (∀ a v, i ≠ .wrConfig a v) → SentBetween s t sent →
    (∀ x ∈ sent, ∀ a r v, x.frame = .wr a r v → x.sender = .controller ∧ x.failure = none) →
    t.CacheAgrees

/-- The frame of the writing commands, whatever the bus answers (and, for the two that send several frames, when no
other agent steps between them): no other device, no line and no session changes; a threshold write leaves Config and
the comparator, a Config write leaves the thresholds, and no write touches the Conversion register (R74, R76, R125). -/
def Obligations.WritingCommandsFrame : Prop :=
  ∀ (i : Instr) (s t : State), exec i s = .next t →
    ((∃ c g, i = .startSingleShot c g) ∨ (∃ c g r, i = .startContinuous c g r) ∨
      (∃ c g cm p l q, i = .enableComparator c g cm p l q) ∨ i = .disableComparator ∨
      (∃ r v, i = .writeRegister r v) ∨
      s.env.quiet 2 ∧ ((∃ lo hi, i = .setThresholds lo hi) ∨
        (∃ c g cm p l q lo hi, i = .armComparator c g cm p l q lo hi))) →
    t.line = s.line ∧ t.others = s.others ∧ t.handle.addr = s.handle.addr ∧ t.handle.live = s.handle.live ∧
    ((∃ lo hi, i = .setThresholds lo hi) → t.handle = s.handle) ∧
    (∀ b, b.addr ≠ s.handle.addr → t.devices.get b = s.devices.get b) ∧
    (∀ b d, s.devices.get b = some d → ∃ d', t.devices.get b = some d' ∧ d'.conversion = d.conversion ∧
      ((∃ lo hi, i = .setThresholds lo hi) ∨ (∃ v, i = .writeRegister 2 v) ∨ (∃ v, i = .writeRegister 3 v) →
        d' = { d with ptr := d'.ptr, low := d'.low, high := d'.high }) ∧
      (∀ v, i = .writeRegister 2 v → d'.high = d.high) ∧ (∀ v, i = .writeRegister 3 v → d'.low = d.low) ∧
      ((∃ c g, i = .startSingleShot c g) ∨ (∃ c g r, i = .startContinuous c g r) ∨
        (∃ c g cm p l q, i = .enableComparator c g cm p l q) ∨ i = .disableComparator ∨
        (∃ v, i = .writeRegister 1 v) → d'.low = d.low ∧ d'.high = d.high))

/-- The frame of the reading commands, whatever the bus answers, when no other agent steps while they run: of the
devices only the pointer and a latched alert of the handle's own can change; the handle's cache, gain and address, the
sessions and the line stay, but for the flag `waitForAlert` clears (R45, R81, R82, R113, R114, R136). -/
def Obligations.ReadingCommandsFrame : Prop :=
  ∀ (i : Instr) (s t : State) (n : Nat), exec i s = .next t → s.env.quiet n →
    ((∃ r, i = .readRegister r) ∧ n = 1 ∨ (∃ g, i = .readConversion g) ∧ n = 1 ∨
      (∃ ri r, i = .pollUntilReady ri ∧ checkDataRate ri = .ok r ∧ n = 2 * maxPolls r) ∨
      (∃ k g, i = .waitForAlert k g ∧ n = alertPolls k s.handle.dataRate + 3)) →
    t.line.armed = s.line.armed ∧ t.line.edge = s.line.edge ∧
    ((∀ k g, i ≠ .waitForAlert k g) → t.line.flag = s.line.flag) ∧
    t.others = s.others ∧ t.handle = { s.handle with engine := t.handle.engine } ∧
    ((∃ r, i = .readRegister r) → t.handle.engine = s.handle.engine) ∧
    (∀ b, b.addr ≠ s.handle.addr → t.devices.get b = s.devices.get b) ∧
    (∀ b d, s.devices.get b = some d → ∃ d', t.devices.get b = some d' ∧
      d' = { d with ptr := d'.ptr, alert := d'.alert } ∧ (d'.alert ≠ d.alert → d.cfg.getLsbD 2 = true ∧ d'.alert = false))

/-- R141: the status of every result: 0 for success, 5 for ConfigError, 1 for every other error; and the cause numbers
of R138. -/
def Obligations.StatusCodesOfResults : Prop :=
  (∀ v, (Answer.done v).status = 0) ∧
  (∀ what b, (Answer.failed (.config what) b).status = 5) ∧
  (∀ e b, (∀ what, e ≠ .config what) → (Answer.failed e b).status = 1) ∧
  (∀ how k p, (HostError.transport how k p).cause = 1) ∧ (∀ what, (HostError.config what).cause = 2) ∧
  (∀ r n, (HostError.conversionTimeout r n).cause = 3) ∧ (∀ k n, (HostError.alertTimeout k n).cause = 4) ∧
  HostError.lineArm.cause = 5

/-- An index outside its domain is a ConfigError of the command, for every command with enumeration operands whose handle
and engine allow it; of several it records the first in operand order. Nothing else changes but the engine of
`readConversion` and `waitForAlert`, which R108 leaves Idle "with or without error" (R66, R108, R138, R140, R143; log
entry 10). `voltsToCode` records the gain whatever its voltage (R101; log entry 29). -/
def Obligations.OutOfRangeIndexIsAConfigError : Prop :=
  ∀ (s : State) (c g m r cm p l q : Nat) (t : Bool) (lo hi : F64) (what : Culprit),
    (firstBad [(8 ≤ c, .channel), (6 ≤ g, .gain), (2 ≤ m, .mode), (8 ≤ r, .dataRate), (2 ≤ cm, .compareMode),
        (2 ≤ p, .polarity), (2 ≤ l, .latch), (q ∉ [0, 1, 2, 4], .queueDepth)] = some what →
      exec (.buildConfig c g m r cm p l q t) s = .next (s.raise 0x20#8 (.config what))) ∧
    (4 ≤ r → exec (.init r) s = .next (s.raise 0x01#8 (.config .address))) ∧
    (6 ≤ g → (∀ raw, exec (.scaleToVoltage raw g) s = .next (s.raise 0x22#8 (.config .gain))) ∧
      exec (.voltsToCode lo g) s = .next (s.raise 0x23#8 (.config .gain))) ∧
    (s.handle.live = true → 4 ≤ r → exec (.readRegister r) s = .next (s.raise 0x10#8 (.config .regId)) ∧
      ∀ v, exec (.writeRegister r v) s = .next (s.raise 0x11#8 (.config .regId))) ∧
    (s.handle.live = true → (s.handle.engine = .idle ∨ s.handle.engine = .ready) →
      (firstBad [(8 ≤ c, .channel), (6 ≤ g, .gain)] = some what →
        exec (.startSingleShot c g) s = .next (s.raise 0x30#8 (.config what))) ∧
      (6 ≤ g → exec (.readConversion g) s = .next ((s.setEngine .idle).raise 0x32#8 (.config .gain)) ∧
        ∀ k, exec (.waitForAlert k g) s = .next ((s.setEngine .idle).raise 0x47#8 (.config .gain))) ∧
      (firstBad [(8 ≤ c, .channel), (6 ≤ g, .gain), (8 ≤ r, .dataRate)] = some what →
        exec (.startContinuous c g r) s = .next (s.raise 0x33#8 (.config what))) ∧
      (firstBad [(8 ≤ c, .channel), (6 ≤ g, .gain), (2 ≤ cm, .compareMode), (2 ≤ p, .polarity), (2 ≤ l, .latch),
          (q ∉ [1, 2, 4], .queueDepth)] = some what →
        exec (.enableComparator c g cm p l q) s = .next (s.raise 0x41#8 (.config what)) ∧
        exec (.armComparator c g cm p l q lo hi) s = .next (s.raise 0x42#8 (.config what)))) ∧
    (s.handle.live = true → s.handle.engine = .converting → 8 ≤ r →
      exec (.pollUntilReady r) s = .next (s.raise 0x31#8 (.config .dataRate)))

end
end

