-- ==== Sys2Proof/Laws/Decode.lean ====
section
/-! SUPPORT. The byte forms read back: integers, words and binary64 values. -/

namespace Sys2Proof

/-- Reading the digits of `n` gives `n` back, if there is fuel for its digits and a leading zero is allowed. -/
theorem readNat_natDigits (fuel n : Nat) (rest : List Byte) (first : Bool) (hf : n < 128 * 128 ^ fuel)
    (h0 : first = true ∨ n ≠ 0) : readNat first (natDigits fuel n ++ rest) = some (n, rest) := by
  induction fuel generalizing n first with
  | zero =>
    simp [natDigits, readNat] at *
    have : n % 256 = n := by omega
    simp [this, hf]
    intro h
    rcases h0 with h0 | h0 <;> simp_all
  | succ k ih =>
    unfold natDigits
    split
    · rename_i h
      have : n % 256 = n := by omega
      simp [readNat, this, h]
      intro h
      rcases h0 with h0 | h0 <;> simp_all
    · rename_i h
      have e : (128 + n % 128) % 256 = 128 + n % 128 := by omega
      simp [readNat, e]
      rw [ih (n / 128) false (by rw [pow_succ] at hf; omega) (by right; omega)]
      simp
      omega

/-- An integer operand is read back whole, with what follows it left over. -/
theorem readNat_natBytes (n : Nat) (rest : List Byte) : readNat true (natBytes n ++ rest) = some (n, rest) := by
  apply readNat_natDigits _ _ _ _ _ (.inl rfl)
  calc n < 2 ^ (n.log2 + 1) := Nat.lt_log2_self
    _ ≤ 128 * 128 ^ n.log2 := by
      rw [pow_succ, mul_comm]
      exact Nat.mul_le_mul (by omega) (Nat.pow_le_pow_left (by omega) _)

/-- The two bytes of a word join to it (R42). -/
theorem joinWord_bytes (v : Word) : joinWord (v.extractLsb' 8 8) (v.extractLsb' 0 8) = v := by
  apply BitVec.eq_of_getLsbD_eq
  intro i hi
  simp only [joinWord, BitVec.getLsbD_append, BitVec.getLsbD_extractLsb']
  rcases Nat.lt_or_ge i 8 with h | h
  · simp [h]
  · have : i - 8 < 8 := by omega
    simp [this, show ¬ i < 8 by omega, show 8 + (i - 8) = i by omega]

/-- Two received bytes join with the first one in bits 15:8 (R42). -/
theorem joinBytes_pair (b1 b0 : Byte) : joinBytes [b1, b0] = joinWord b1 b0 := by
  have h : BitVec.extractLsb' 0 8 (BitVec.extractLsb' 0 8 (0#16) ++ b1) = b1 := by
    apply BitVec.eq_of_getLsbD_eq
    intro i hi
    rw [BitVec.getLsbD_extractLsb', BitVec.getLsbD_append]
    simp [hi]
  unfold joinBytes joinWord
  rw [List.foldl_cons, List.foldl_cons, List.foldl_nil, h]

/-- The word of the bytes a device sends is the word it read (R42). -/
@[simp] theorem joinBytes_wordBytes (v : Word) : joinBytes (wordBytes v) = v :=
  (joinBytes_pair ..).trans (joinWord_bytes v)

/-- A well-formed index is its operand byte. -/
theorem indexByte_toNat {i : Nat} (h : indexFits i = true) : (indexByte i).toNat = i := by
  simp [indexFits] at h
  simp [indexByte]
  omega

end Sys2Proof
end

