-- ==== Sys2Proof/Laws/State.lean ====
section
/-! SUPPORT. One lemma per field per update of the state, so that no later proof unfolds a record update. -/

namespace Sys2Proof.Machine

/-! ### Handle and host -/

@[simp] theorem Handle.setEngine_addr (h : Handle) (e : Engine) : (h.setEngine e).addr = h.addr := rfl
@[simp] theorem Handle.setEngine_cache (h : Handle) (e : Engine) : (h.setEngine e).cache = h.cache := rfl
@[simp] theorem Handle.setEngine_gain (h : Handle) (e : Engine) : (h.setEngine e).gain = h.gain := rfl
@[simp] theorem Handle.setEngine_engine (h : Handle) (e : Engine) : (h.setEngine e).engine = e := rfl
@[simp] theorem Handle.setEngine_live (h : Handle) (e : Engine) : (h.setEngine e).live = h.live := rfl
@[simp] theorem Handle.commit_addr (h : Handle) (v : Word) : (h.commit v).addr = h.addr := rfl
@[simp] theorem Handle.commit_cache (h : Handle) (v : Word) : (h.commit v).cache = some v := rfl
@[simp] theorem Handle.commit_gain (h : Handle) (v : Word) : (h.commit v).gain = some (fieldsOf v).gain := rfl
@[simp] theorem Handle.commit_engine (h : Handle) (v : Word) : (h.commit v).engine = h.engine := rfl
@[simp] theorem Handle.commit_live (h : Handle) (v : Word) : (h.commit v).live = h.live := rfl

@[simp] theorem HostAgent.answer_pending (h : HostAgent) (op : Option Byte) (a : Answer) : (h.answer op a).pending = h.pending := rfl
@[simp] theorem HostAgent.answer_index (h : HostAgent) (op : Option Byte) (a : Answer) : (h.answer op a).index = h.index := rfl
@[simp] theorem HostAgent.answer_status (h : HostAgent) (op : Option Byte) (a : Answer) : (h.answer op a).status = h.status := rfl
@[simp] theorem HostAgent.answer_report (h : HostAgent) (op : Option Byte) (a : Answer) : (h.answer op a).report = some { opcode := op, answer := a } := rfl
@[simp] theorem HostAgent.answer_holding (h : HostAgent) (op : Option Byte) (a : Answer) : (h.answer op a).holding = false := rfl

/-! ### The state -/

@[simp] theorem State.setEngine_devices (s : State) (e : Engine) : (s.setEngine e).devices = s.devices := rfl
@[simp] theorem State.setEngine_handle (s : State) (e : Engine) : (s.setEngine e).handle = s.handle.setEngine e := rfl
@[simp] theorem State.setEngine_line (s : State) (e : Engine) : (s.setEngine e).line = s.line := rfl
@[simp] theorem State.setEngine_host (s : State) (e : Engine) : (s.setEngine e).host = s.host := rfl
@[simp] theorem State.setEngine_others (s : State) (e : Engine) : (s.setEngine e).others = s.others := rfl
@[simp] theorem State.setEngine_env (s : State) (e : Engine) : (s.setEngine e).env = s.env := rfl
@[simp] theorem State.setEngine_wire (s : State) (e : Engine) : (s.setEngine e).wire = s.wire := rfl

@[simp] theorem State.update_devices (s : State) (u : Update) : (s.update u).devices = s.devices := rfl
@[simp] theorem State.update_handle (s : State) (u : Update) : (s.update u).handle = u.onHandle s.handle := rfl
@[simp] theorem State.update_line (s : State) (u : Update) : (s.update u).line = u.onLine s.line := rfl
@[simp] theorem State.update_host (s : State) (u : Update) : (s.update u).host = s.host := rfl
@[simp] theorem State.update_others (s : State) (u : Update) : (s.update u).others = s.others := rfl
@[simp] theorem State.update_env (s : State) (u : Update) : (s.update u).env = s.env := rfl
@[simp] theorem State.update_wire (s : State) (u : Update) : (s.update u).wire = s.wire := rfl

@[simp] theorem State.answer_devices (s : State) (op : Option Byte) (a : Answer) : (s.answer op a).devices = s.devices := rfl
@[simp] theorem State.answer_handle (s : State) (op : Option Byte) (a : Answer) : (s.answer op a).handle = s.handle := rfl
@[simp] theorem State.answer_line (s : State) (op : Option Byte) (a : Answer) : (s.answer op a).line = s.line := rfl
@[simp] theorem State.answer_host (s : State) (op : Option Byte) (a : Answer) : (s.answer op a).host = s.host.answer op a := rfl
@[simp] theorem State.answer_others (s : State) (op : Option Byte) (a : Answer) : (s.answer op a).others = s.others := rfl
@[simp] theorem State.answer_env (s : State) (op : Option Byte) (a : Answer) : (s.answer op a).env = s.env := rfl
@[simp] theorem State.answer_wire (s : State) (op : Option Byte) (a : Answer) : (s.answer op a).wire = s.wire := rfl

@[simp] theorem State.succeed_devices (s : State) (op : Byte) (v : Value) : (s.succeed op v).devices = s.devices := rfl
@[simp] theorem State.succeed_handle (s : State) (op : Byte) (v : Value) : (s.succeed op v).handle = s.handle := rfl
@[simp] theorem State.succeed_line (s : State) (op : Byte) (v : Value) : (s.succeed op v).line = s.line := rfl
@[simp] theorem State.succeed_host (s : State) (op : Byte) (v : Value) : (s.succeed op v).host = s.host.answer (some op) (.done v) := rfl
@[simp] theorem State.succeed_others (s : State) (op : Byte) (v : Value) : (s.succeed op v).others = s.others := rfl
@[simp] theorem State.succeed_env (s : State) (op : Byte) (v : Value) : (s.succeed op v).env = s.env := rfl
@[simp] theorem State.succeed_wire (s : State) (op : Byte) (v : Value) : (s.succeed op v).wire = s.wire := rfl

@[simp] theorem State.raise_devices (s : State) (op : Byte) (e : HostError) : (s.raise op e).devices = s.devices := rfl
@[simp] theorem State.raise_handle (s : State) (op : Byte) (e : HostError) : (s.raise op e).handle = s.handle := rfl
@[simp] theorem State.raise_line (s : State) (op : Byte) (e : HostError) : (s.raise op e).line = s.line := rfl
@[simp] theorem State.raise_host (s : State) (op : Byte) (e : HostError) : (s.raise op e).host = s.host.answer (some op) (.failed e none) := rfl
@[simp] theorem State.raise_others (s : State) (op : Byte) (e : HostError) : (s.raise op e).others = s.others := rfl
@[simp] theorem State.raise_env (s : State) (op : Byte) (e : HostError) : (s.raise op e).env = s.env := rfl
@[simp] theorem State.raise_wire (s : State) (op : Byte) (e : HostError) : (s.raise op e).wire = s.wire := rfl

@[simp] theorem State.raiseBeside_devices (s : State) (op : Byte) (e : HostError) (b : Option HostError) : (s.raiseBeside op e b).devices = s.devices := rfl
@[simp] theorem State.raiseBeside_handle (s : State) (op : Byte) (e : HostError) (b : Option HostError) : (s.raiseBeside op e b).handle = s.handle := rfl
@[simp] theorem State.raiseBeside_line (s : State) (op : Byte) (e : HostError) (b : Option HostError) : (s.raiseBeside op e b).line = s.line := rfl
@[simp] theorem State.raiseBeside_host (s : State) (op : Byte) (e : HostError) (b : Option HostError) : (s.raiseBeside op e b).host = s.host.answer (some op) (.failed e b) := rfl
@[simp] theorem State.raiseBeside_others (s : State) (op : Byte) (e : HostError) (b : Option HostError) : (s.raiseBeside op e b).others = s.others := rfl
@[simp] theorem State.raiseBeside_env (s : State) (op : Byte) (e : HostError) (b : Option HostError) : (s.raiseBeside op e b).env = s.env := rfl
@[simp] theorem State.raiseBeside_wire (s : State) (op : Byte) (e : HostError) (b : Option HostError) : (s.raiseBeside op e b).wire = s.wire := rfl

@[simp] theorem State.alertEdge_devices (s : State) (a : Strap) : (s.alertEdge a).devices = s.devices := rfl
@[simp] theorem State.alertEdge_handle (s : State) (a : Strap) : (s.alertEdge a).handle = s.handle := rfl
@[simp] theorem State.alertEdge_line (s : State) (a : Strap) : (s.alertEdge a).line = captureFor a s.handle s.line := rfl
@[simp] theorem State.alertEdge_host (s : State) (a : Strap) : (s.alertEdge a).host = s.host := rfl
@[simp] theorem State.alertEdge_others (s : State) (a : Strap) : (s.alertEdge a).others = s.others.map fun p => { p with line := captureFor a p.handle p.line } := rfl
@[simp] theorem State.alertEdge_env (s : State) (a : Strap) : (s.alertEdge a).env = s.env := rfl
@[simp] theorem State.alertEdge_wire (s : State) (a : Strap) : (s.alertEdge a).wire = s.wire := rfl

theorem State.gap_devices (s : State) : s.gap.devices = (s.agentSteps s.env.nextGap.1).devices := rfl
@[simp] theorem State.gap_handle (s : State) : s.gap.handle = s.handle := rfl
theorem State.gap_line (s : State) : s.gap.line = (s.agentSteps s.env.nextGap.1).line := rfl
@[simp] theorem State.gap_host (s : State) : s.gap.host = s.host := rfl
theorem State.gap_others (s : State) : s.gap.others = (s.agentSteps s.env.nextGap.1).others := rfl
theorem State.gap_env (s : State) : s.gap.env = s.env.nextGap.2 := rfl
theorem State.gap_wire (s : State) : s.gap.wire = (s.agentSteps s.env.nextGap.1).wire := rfl

@[simp] theorem State.perform_host (s : State) (a : Action) : (s.perform a).2.host = s.host := rfl
@[simp] theorem State.perform_others (s : State) (a : Action) : (s.perform a).2.others = s.others := rfl

/-! ### Latch clear and comparator reset touch the comparator alone -/

@[simp] theorem Device.latchClearOnRead_cfg (d : Device) : d.latchClearOnRead.cfg = d.cfg := rfl
@[simp] theorem Device.latchClearOnRead_mode (d : Device) : d.latchClearOnRead.mode = d.mode := rfl
@[simp] theorem Device.latchClearOnRead_cnt (d : Device) : d.latchClearOnRead.cnt = d.cnt := rfl
@[simp] theorem Device.latchClearOnRead_conversion (d : Device) : d.latchClearOnRead.conversion = d.conversion := rfl
@[simp] theorem Device.latchClearOnRead_low (d : Device) : d.latchClearOnRead.low = d.low := rfl
@[simp] theorem Device.latchClearOnRead_high (d : Device) : d.latchClearOnRead.high = d.high := rfl
@[simp] theorem Device.latchClearOnRead_ptr (d : Device) : d.latchClearOnRead.ptr = d.ptr := rfl
@[simp] theorem Device.latchClearOnRead_fresh (d : Device) : d.latchClearOnRead.fresh = d.fresh := rfl
@[simp] theorem Device.write_config (d : Device) (v : Word) :
    d.write .config v = { d with
      cfg := v.extractLsb' 0 15, fresh := false, mode := modeAfterWrite v d.mode, cnt := 0, alert := false } := rfl
@[simp] theorem Device.write_low (d : Device) (v : Word) : d.write .low v = { d with low := v } := rfl
@[simp] theorem Device.write_high (d : Device) (v : Word) : d.write .high v = { d with high := v } := rfl

end Sys2Proof.Machine
end

