-- ==== Sys2Proof/Laws/Ops.lean ====
section
/-! SUPPORT. What each shared operation can do, said once: the bus positions, the draws, the other agents' steps and
the gap, one frame, one controller step, and the controller's primitives on an acknowledging bus. -/

namespace Sys2Proof.Machine

/-! ### Addresses and bus positions -/

@[simp] theorem ofAddr_addr (a : Strap) : Strap.ofAddr a.addr = some a := by cases a <;> rfl

/-- An address at which a strap answers is that strap's address. -/
theorem addr_of_ofAddr {x : Addr} {a : Strap} (h : Strap.ofAddr x = some a) : x = a.addr := by
  have : ∀ (x : Addr) (a : Strap), Strap.ofAddr x = some a → x = a.addr := by
    intro x a
    cases a <;> revert x <;> decide
  exact this x a h

@[simp] theorem Devices.get_set (ds : Devices) (a b : Strap) (d : Option Device) :
    (ds.set a d).get b = if b = a then d else ds.get b := by
  cases a <;> cases b <;> rfl

@[simp] theorem Devices.set_set (ds : Devices) (a : Strap) (d d' : Option Device) :
    (ds.set a d).set a d' = ds.set a d' := by
  cases a <;> rfl

@[simp] theorem Devices.set_get (ds : Devices) (a : Strap) : ds.set a (ds.get a) = ds := by cases a <;> rfl

@[simp] theorem Devices.at_addr (ds : Devices) (a : Strap) : ds.at a.addr = ds.get a := by simp [Devices.at]

/-- A frame's effect on a populated position. -/
theorem Devices.deliver_of_get {ds : Devices} {a : Strap} {d : Device} {f : Frame} (hf : f.addr = a.addr)
    (hd : ds.get a = some d) : ds.deliver f = ds.set a (some (d.deliver f)) := by
  simp [Devices.deliver, hf, hd]

/-- A frame leaves every position alone but the one it addresses (R74). -/
theorem Devices.deliver_other {ds : Devices} {f : Frame} {b : Strap} (h : f.addr ≠ b.addr) :
    (ds.deliver f).get b = ds.get b := by
  unfold Devices.deliver
  split
  · rfl
  · rename_i a ha
    have : b ≠ a := fun e => h (addr_of_ofAddr (e ▸ ha))
    simp [this]

/-! ### The word a Config read returns (R24) -/

/-- Bits 14:0 of a Config read are the stored word. -/
theorem Device.value_config_low (d : Device) (os : Bool) : (d.value os .config).extractLsb' 0 15 = d.cfg := by
  apply BitVec.eq_of_getLsbD_eq
  intro i hi
  unfold Device.value
  rw [BitVec.getLsbD_extractLsb', BitVec.getLsbD_append]
  simp [hi]

/-- Bit 15 of a Config read is the OS bit. -/
theorem Device.value_config_os (d : Device) (os : Bool) : (d.value os .config).getLsbD 15 = os := by
  unfold Device.value
  rw [BitVec.getLsbD_append]
  simp

/-! ### Draws -/

theorem Env.nextFrame_cons {e : Env} {x : BusAnswer} {xs : List BusAnswer} (h : e.frames = x :: xs) :
    e.nextFrame = (x, { e with frames := xs }) := by simp [Env.nextFrame, draw, h]

theorem Env.nextGap_cons {e : Env} {x : List AgentStep} {xs : List (List AgentStep)} (h : e.gaps = x :: xs) :
    e.nextGap = (x, { e with gaps := xs }) := by simp [Env.nextGap, draw, h]

theorem Env.nextArm_cons {e : Env} {x : Bool} {xs : List Bool} (h : e.arms = x :: xs) :
    e.nextArm = (x, { e with arms := xs }) := by simp [Env.nextArm, draw, h]

theorem Env.nextOsRead_cons {e : Env} {x : Bool} {xs : List Bool} (h : e.osReads = x :: xs) :
    e.nextOsRead = (x, { e with osReads := xs }) := by simp [Env.nextOsRead, draw, h]

/-- The draws of a frame that reads no free OS bit. -/
theorem Env.frameDraws_cons {e : Env} {ds : Devices} {f : Frame} {x : BusAnswer} {xs : List BusAnswer}
    (h : e.frames = x :: xs) (hf : x = .ack → readsFreeOs ds f = false) :
    e.frameDraws ds f = ({ bus := x, os := false, arms := false }, { e with frames := xs }) := by
  simp only [Env.frameDraws, Env.nextFrame_cons h]
  split
  · rename_i hc
    simp at hc
    simp [hf hc.1] at hc
  · rfl

/-! ### One frame -/

/-- An acknowledged frame to a populated position. -/
theorem busTx_ack {ds : Devices} {f : Frame} {w : Draws} {a : Strap} {d : Device} (hf : f.addr = a.addr)
    (hd : ds.get a = some d) (hw : w.bus = .ack) : busTx ds f w = (.ok (d.reply w.os f), ds.set a (some (d.deliver f))) := by
  simp [busTx, hf, hd, hw, Devices.deliver_of_get hf hd]

/-- Every frame ends in one of two ways: acknowledged, its full effect taken, or failed, with no effect or the full
effect (R73, log entry 4). -/
theorem busTx_cases (ds : Devices) (f : Frame) (w : Draws) :
    (∃ d, ds.at f.addr = some d ∧ busTx ds f w = (.ok (d.reply w.os f), ds.deliver f)) ∨
    (∃ how took, busTx ds f w = (.error how, if took = true then ds.deliver f else ds)) := by
  unfold busTx
  split
  · exact .inr ⟨_, false, rfl⟩
  · rename_i d hd
    split
    · exact .inl ⟨d, hd, rfl⟩
    · exact .inr ⟨_, _, rfl⟩
    · exact .inr ⟨_, _, rfl⟩

/-- A frame to a populated position that fails. -/
theorem busTx_fail {ds : Devices} {f : Frame} {w : Draws} {a : Strap} {d : Device} {how : BusFailure} {took : Bool}
    (hf : f.addr = a.addr) (hd : ds.get a = some d) (h : FailsAs w.bus how took) :
    busTx ds f w = (.error how, if took = true then ds.set a (some (d.deliver f)) else ds) := by
  obtain ⟨hb, rfl⟩ | ⟨hb, rfl⟩ := h <;> simp [busTx, hf, hd, hb, Devices.deliver_of_get hf hd]

/-- A write or pointer frame brings no data back. -/
theorem Device.reply_of_ne_rd {d : Device} {os : Bool} {f : Frame} (h : ∀ x, f ≠ .rd x) : d.reply os f = [] := by
  cases f with
  | ptr => rfl
  | wr => rfl
  | rd x => exact absurd rfl (h x)

/-- What a read takes where the OS bit is not a draw or not read. -/
theorem Device.readValue_fixed {d : Device} (os : Bool) (h : d.ptr = .config → d.mode ≠ .continuous) :
    d.readValue os = d.value (decide (d.mode = .powerDown)) d.ptr := by
  cases hm : d.mode <;> simp [Device.readValue, osRead, hm]
  cases hp : d.ptr <;> simp [Device.value]
  exact absurd hm (h hp)

/-! ### The other agents -/

/-- One controller step takes at most one frame's effect on the devices (R46). -/
theorem perform_devices (who : Sender) (w : Draws) (h : Handle) (l : Line) (ds : Devices) (a : Action) :
    (perform who w h l ds a).devices = ds ∨ ∃ f, (perform who w h l ds a).devices = ds.deliver f := by
  have t : ∀ f, (busTx ds f w).2 = ds ∨ ∃ g, (busTx ds f w).2 = ds.deliver g := by
    intro f
    obtain ⟨d, -, h⟩ | ⟨how, took, h⟩ := busTx_cases ds f w <;> rw [h]
    · exact .inr ⟨f, rfl⟩
    · cases took
      · exact .inl rfl
      · exact .inr ⟨f, rfl⟩
  cases a with
  | tx f => exact t f
  | config v after => exact t _
  | arm | look | clearFlag | waits => exact .inl rfl

/-- A conversion changes at most the device it names and the edge bits of lines: everything else stays. -/
theorem State.convert_keeps (s : State) (a : Strap) (x : Word) (al : Bool) (c : Nat) :
    (s.convert a x al c).handle = s.handle ∧ (s.convert a x al c).host = s.host ∧
    (s.convert a x al c).env = s.env ∧ (s.convert a x al c).wire = s.wire ∧
    (s.convert a x al c).others.length = s.others.length := by
  unfold State.convert
  split
  · simp
  · dsimp only
    split <;> [skip; simp]
    split <;> simp

/-- One controller step puts at most one frame on the bus, under its sender's name (R46). -/
theorem perform_sent (who : Sender) (w : Draws) (h : Handle) (l : Line) (ds : Devices) (a : Action) :
    (perform who w h l ds a).sent.length ≤ 1 ∧ ∀ y ∈ (perform who w h l ds a).sent, y.sender = who := by
  have t : ∀ f r, (transferOf who f r).sender = who := by intro f r; cases r <;> rfl
  cases a <;> simp [perform, t]

/-- So does the controller step of another session. -/
theorem Session.turn_sent (p : Session) (w : Draws) (ds : Devices) :
    (p.turn w ds).2.2.length ≤ 1 ∧ ∀ y ∈ (p.turn w ds).2.2, y.sender = .other := by
  have key : ∀ (m : Routine) (reached : Progress) (p : Session),
      (m.turn w ds reached p).2.2.length ≤ 1 ∧ ∀ y ∈ (m.turn w ds reached p).2.2, y.sender = .other := by
    intro m reached
    induction m with
    | done | hold | refuse => intro p; simp [Routine.turn]
    | set u rest ih => intro p; exact ih _
    | ask a next _ => intro p; exact perform_sent ..
  unfold Session.turn
  split <;> try simp
  split
  · simp
  · exact key ..

/-- What a step of any other agent leaves alone: the running handle and host, the environment's queues, and how many
other sessions there are; and the frames it puts on the wire, at most one, are not the running session's. -/
theorem State.agentStep_keeps (s : State) (x : AgentStep) :
    (s.agentStep x).handle = s.handle ∧ (s.agentStep x).host = s.host ∧ (s.agentStep x).env = s.env ∧
    (s.agentStep x).others.length = s.others.length ∧
    ∃ sent, (s.agentStep x).wire = sent ++ s.wire ∧ sent.length ≤ 1 ∧ ∀ y ∈ sent, y.sender = .other := by
  cases x with
  | convert a v al c =>
    obtain ⟨h1, h2, h3, h4, h5⟩ := s.convert_keeps a v al c
    exact ⟨h1, h2, h3, h5, [], by simp [State.agentStep, h4], by simp, by simp⟩
  | deliver => exact ⟨rfl, rfl, rfl, rfl, [], rfl, by simp, by simp⟩
  | deliverOther k => exact ⟨rfl, rfl, rfl, by simp [State.agentStep], [], rfl, by simp, by simp⟩
  | controller k w =>
    unfold State.agentStep
    dsimp only
    split
    · exact ⟨rfl, rfl, rfl, rfl, [], rfl, by simp, by simp⟩
    · rename_i p _
      exact ⟨rfl, rfl, rfl, by simp, _, rfl, p.turn_sent w s.devices⟩
  | foreign f => exact ⟨rfl, rfl, rfl, rfl, [_], rfl, by simp, by simp⟩

/-- The same of a sequence of their steps. -/
theorem State.agentSteps_keeps (s : State) (xs : List AgentStep) :
    (s.agentSteps xs).handle = s.handle ∧ (s.agentSteps xs).host = s.host ∧ (s.agentSteps xs).env = s.env ∧
    (s.agentSteps xs).others.length = s.others.length ∧
    ∃ sent, (s.agentSteps xs).wire = sent ++ s.wire ∧ ∀ y ∈ sent, y.sender = .other := by
  induction xs generalizing s with
  | nil => exact ⟨rfl, rfl, rfl, rfl, [], rfl, by simp⟩
  | cons x xs ih =>
    obtain ⟨h1, h2, h3, h4, sent, hw, ho⟩ := ih (s.agentStep x)
    obtain ⟨k1, k2, k3, k4, sent', kw, -, ko⟩ := s.agentStep_keeps x
    refine ⟨h1.trans k1, h2.trans k2, h3.trans k3, h4.trans k4, sent ++ sent', hw.trans (by simp [kw]), ?_⟩
    intro y hy
    rcases List.mem_append.mp hy with hy | hy
    · exact ho y hy
    · exact ko y hy

/-- A gap in which no other agent steps. -/
theorem State.gap_quiet {s : State} {gs : List (List AgentStep)} (h : s.env.gaps = [] :: gs) :
    s.gap = { s with env := { s.env with gaps := gs } } := by
  simp [State.gap, Env.nextGap_cons h, State.agentSteps]

/-! ### The controller on an acknowledging bus -/

/-- A routine's first controller step comes with no gap before it. -/
theorem Routine.run_first (a : Action) (next : Reply → Routine) (s : State) :
    (Routine.ask a next).run false s = (next (s.perform a).1).run true (s.perform a).2 := rfl

/-- Every later controller step comes after a gap. -/
theorem Routine.run_next (a : Action) (next : Reply → Routine) (s : State) :
    (Routine.ask a next).run true s = (Routine.ask a next).run false s.gap := rfl

/-- A later controller step with no other agent before it. -/
theorem Routine.run_next_quiet {a : Action} {next : Reply → Routine} {s : State} {gs : List (List AgentStep)}
    (h : s.env.gaps = [] :: gs) :
    (Routine.ask a next).run true s = (Routine.ask a next).run false { s with env := { s.env with gaps := gs } } := by
  rw [Routine.run_next, State.gap_quiet h]

/-- An acknowledged frame of the running session that reads no free OS bit. -/
theorem State.perform_tx_ack {s : State} {f : Frame} {a : Strap} {d : Device} {fs : List BusAnswer}
    (hf : f.addr = a.addr) (hd : s.devices.get a = some d) (hb : s.env.frames = .ack :: fs)
    (ho : readsFreeOs s.devices f = false) :
    s.perform (.tx f) = (.bus (.ok (d.reply false f)), { s with
      devices := s.devices.set a (some (d.deliver f))
      env := { s.env with frames := fs }
      wire := sentAck f (d.reply false f) :: s.wire }) := by
  have h := busTx_ack (w := { bus := .ack, os := false, arms := false }) hf hd rfl
  simp [State.perform, Env.drawsFor, Env.frameDraws_cons hb (fun _ => ho), Machine.perform, h, transferOf, sentAck]

/-- A frame of the running session that fails. -/
theorem State.perform_tx_fail {s : State} {f : Frame} {a : Strap} {d : Device} {ans : BusAnswer} {fs : List BusAnswer}
    {how : BusFailure} {took : Bool} (hf : f.addr = a.addr) (hd : s.devices.get a = some d)
    (hb : s.env.frames = ans :: fs) (h : FailsAs ans how took) :
    s.perform (.tx f) = (.bus (.error how), { s with
      devices := if took = true then s.devices.set a (some (d.deliver f)) else s.devices
      env := { s.env with frames := fs }
      wire := sentFail f how :: s.wire }) := by
  have hn : ans ≠ .ack := by obtain ⟨rfl, -⟩ | ⟨rfl, -⟩ := h <;> simp
  have hx := busTx_fail (w := { bus := ans, os := false, arms := false }) hf hd h
  simp [State.perform, Env.drawsFor, Env.frameDraws_cons hb (fun e => absurd e hn), Machine.perform, hx, transferOf,
    sentFail]

/-- An acknowledged Config write of the running session. -/
theorem State.perform_config_ack {s : State} {a : Strap} {d : Device} {fs : List BusAnswer} (v : Word)
    (after : Option Engine) (ha : s.handle.addr = a.addr) (hd : s.devices.get a = some d)
    (hb : s.env.frames = .ack :: fs) :
    s.perform (.config v after) = (.bus (.ok []), { s with
      devices := s.devices.set a (some ({ d with ptr := .config }.write .config v))
      handle := s.handle.afterConfigWrite v after (.ok [])
      env := { s.env with frames := fs }
      wire := sentAck (.wr a.addr .config v) [] :: s.wire }) := by
  have h := busTx_ack (f := .wr a.addr .config v) (w := { bus := .ack, os := false, arms := false }) rfl hd rfl
  simp [State.perform, Env.drawsFor, ha, Env.frameDraws_cons (f := .wr a.addr .config v) hb (fun _ => rfl),
    Machine.perform, h, transferOf, sentAck, Device.reply, Device.deliver, WReg.toReg]

/-- `MemWrite` on an acknowledged frame goes on with what follows. -/
theorem run_memWrite_ack {s : State} {a : Strap} {d : Device} {fs : List BusAnswer} (r : WReg) (v : Word)
    (onFail : HostError → Routine) (onAck : Routine) (hd : s.devices.get a = some d) (hb : s.env.frames = .ack :: fs) :
    (memWrite a.addr r v onFail onAck).run false s = onAck.run true { s with
      devices := s.devices.set a (some ({ d with ptr := r.toReg }.write r v))
      env := { s.env with frames := fs }
      wire := sentAck (.wr a.addr r v) [] :: s.wire } := by
  rw [memWrite, Routine.run_first, State.perform_tx_ack (f := .wr a.addr r v) rfl hd hb rfl]
  rfl

/-- A handle's Config write on an acknowledged frame goes on with what follows. -/
theorem run_writeConfig_ack {s : State} {a : Strap} {d : Device} {fs : List BusAnswer} (v : Word)
    (after : Option Engine) (onFail : HostError → Routine) (onAck : Routine) (ha : s.handle.addr = a.addr)
    (hd : s.devices.get a = some d) (hb : s.env.frames = .ack :: fs) :
    (writeConfig v after onFail onAck).run false s = onAck.run true { s with
      devices := s.devices.set a (some ({ d with ptr := .config }.write .config v))
      handle := s.handle.afterConfigWrite v after (.ok [])
      env := { s.env with frames := fs }
      wire := sentAck (.wr a.addr .config v) [] :: s.wire } := by
  rw [writeConfig, Routine.run_first, State.perform_config_ack v after ha hd hb]
  rfl

/-- `MemRead` on two acknowledged frames with no other agent between them goes on with the register's value. -/
theorem run_memRead_ack {s : State} {a : Strap} {d : Device} {fs : List BusAnswer} {gs : List (List AgentStep)}
    (p : Reg) (onFail : HostError → Routine) (onRead : Word → Routine) (hd : s.devices.get a = some d)
    (hb : s.env.frames = .ack :: .ack :: fs) (hg : s.env.gaps = [] :: gs) (ho : p = .config → d.mode ≠ .continuous) :
    (memRead a.addr p onFail onRead).run false s =
      (onRead (d.value (decide (d.mode = .powerDown)) p)).run true { s with
        devices := s.devices.set a (some ({ d with ptr := p }.afterRead))
        env := { s.env with frames := fs, gaps := gs }
        wire := sentAck (.rd a.addr) (wordBytes (d.value (decide (d.mode = .powerDown)) p))
          :: sentAck (.ptr a.addr p) [] :: s.wire } := by
  have hv : ∀ q, Device.value { d with ptr := p } q p = d.value q p := by intro q; cases p <;> rfl
  rw [memRead, Routine.run_first, State.perform_tx_ack (f := .ptr a.addr p) rfl hd hb rfl]
  dsimp only [Reply.outcome]
  rw [Routine.run_next, State.gap_quiet (gs := gs) (by exact hg), Routine.run_first,
    State.perform_tx_ack (f := .rd a.addr) (a := a) (d := { d with ptr := p }) (fs := fs) rfl (by simp [Device.deliver])
      rfl ?_]
  · simp [Device.reply, Device.readValue_fixed (d := { d with ptr := p }) false ho, hv, Device.deliver]
  · simp only [readsFreeOs, Device.deliver, Devices.at_addr, Devices.get_set, if_true]
    by_cases hp : p = .config
    · simp [ho hp]
    · simp [hp]

/-- A poll that reads OS = 0 is never the only one: the bound leaves room for a second (R112). -/
theorem one_lt_maxPolls (r : DataRate) : 1 < maxPolls r := by
  have h : Config.pollIntervalMs ≤ ceilDiv 1000 r.sps + Config.pollMarginMs + Config.pollIntervalMs - 1 := by
    cases r <;> simp only [ceilDiv, DataRate.sps] <;> omega
  exact Nat.lt_add_of_pos_right (Nat.div_pos h (Nat.succ_pos _))

end Sys2Proof.Machine
end

