-- ==== Sys2Proof/Laws/Exec.lean ====
section
/-! SUPPORT. What a command can do, said once: every update and controller step of an instruction's routine is one of
those listed by `routine_all`, whatever the answers; and every meaning but `init`'s and a raw Config write's is a sequence
of the micro steps below. A property of states that each micro step keeps is kept by every command. -/

namespace Sys2Proof.Machine

/-- The meaning of an instruction is its routine run whole. -/
theorem exec_eq_run (i : Instr) (s : State) : exec i s = (routine i s.handle s.host.holding).run false s := by
  cases i <;> rfl

/-! ### Every step of every routine -/

section All

variable {P : Update → Prop} {Q : Action → Prop}

theorem all_require {c : Bool} {r : Refusal} {m : Routine} (h : m.All P Q) : (require c r m).All P Q := by
  unfold require
  split
  · exact h
  · trivial

theorem all_checked {α : Type} {op : Byte} {c : Except Culprit α} {body : α → Routine} (h : ∀ x, (body x).All P Q) :
    (checked op c body).All P Q := by
  unfold checked
  split
  · trivial
  · exact h _

theorem all_memRead {x : Addr} {p : Reg} {onFail : HostError → Routine} {onRead : Word → Routine}
    (hp : Q (.tx (.ptr x p))) (hr : Q (.tx (.rd x))) (hf : ∀ e, (onFail e).All P Q) (hv : ∀ v, (onRead v).All P Q) :
    (memRead x p onFail onRead).All P Q := by
  refine ⟨hp, fun r1 => ?_⟩
  dsimp only
  split
  · exact hf _
  · refine ⟨hr, fun r2 => ?_⟩
    dsimp only
    split
    · exact hf _
    · exact hv _

theorem all_memWrite {x : Addr} {r : WReg} {v : Word} {onFail : HostError → Routine} {onAck : Routine}
    (hw : Q (.tx (.wr x r v))) (hf : ∀ e, (onFail e).All P Q) (ha : onAck.All P Q) :
    (memWrite x r v onFail onAck).All P Q := by
  refine ⟨hw, fun reply => ?_⟩
  dsimp only
  split
  · exact hf _
  · exact ha

theorem all_writeConfig {v : Word} {after : Option Engine} {onFail : HostError → Routine} {onAck : Routine}
    (hw : Q (.config v after)) (hf : ∀ e, (onFail e).All P Q) (ha : onAck.All P Q) :
    (writeConfig v after onFail onAck).All P Q := by
  refine ⟨hw, fun reply => ?_⟩
  dsimp only
  split
  · exact hf _
  · exact ha

/-- What every routine is made of: frames that are no Config write, Config writes and engine moves that do not rest in
Configuring, the steps on the line, the end of a handle, and, for `init` and a raw Config write alone, a new handle and
that write. -/
theorem routine_all (hf : ∀ f, (∀ x w, f ≠ .wr x .config w) → Q (.tx f))
    (hc : ∀ v after, after ≠ some .configuring → Q (.config v after)) (ha : Q .arm) (hl : Q .look) (hk : Q .clearFlag)
    (hw : ∀ b, Q (.waits b)) (he : ∀ e, e ≠ .configuring → P (.engine e)) (hd : P .kill) (hm : P .disarm)
    (i : Instr) (h : Handle) (holding : Bool) (hi : ∀ n, i = .init n → ∀ a : Strap, P (.create a.addr))
    (hr : ∀ a v, i = .wrConfig a v → Q (.tx (.wr a.addr .config v))) : (routine i h holding).All P Q := by
  have idle : ∀ op e, (raiseIdle op e).All P Q := fun _ _ => ⟨he _ (by decide), trivial⟩
  have raw : ∀ f, Q (.tx f) → (rawFrame f).All P Q := fun f h => ⟨h, fun _ => trivial⟩
  have sample : ∀ op g x, (readSample op g x).All P Q := fun op g x =>
    all_memRead (hf _ (by simp)) (hf _ (by simp)) (idle op) fun _ => ⟨he _ (by decide), trivial⟩
  have gain : ∀ op n body, (∀ g, (body g).All P Q) → (checkedGainIdle op n body).All P Q := by
    intro op n body hb
    unfold checkedGainIdle
    split
    · exact idle ..
    · exact hb _
  have thresholds : ∀ x lo hi onFail onAck, (∀ e, (onFail e).All P Q) → onAck.All P Q →
      (writeThresholds x lo hi onFail onAck).All P Q := fun x lo hi _ _ h1 h2 =>
    all_memWrite (hf _ (by simp)) h1 (all_memWrite (hf _ (by simp)) h1 h2)
  have config : ∀ v after op op', after ≠ some .configuring →
      (writeConfig v after (raise op) (succeed op' .unit)).All P Q := fun v after _ _ h =>
    all_writeConfig (hc _ _ h) (fun _ => trivial) trivial
  have poll : ∀ r n x left, (pollLoop r n x left).All P Q := by
    intro r n x left
    induction left with
    | zero => exact idle ..
    | succ k ih =>
      refine all_memRead (hf _ (by simp)) (hf _ (by simp)) (idle _) fun v => ?_
      split
      · exact ⟨he _ (by decide), trivial⟩
      · exact ih
  have alert : ∀ g k n x left, (alertLoop g k n x left).All P Q := by
    intro g k n x left
    induction left with
    | zero => exact idle ..
    | succ m ih =>
      refine ⟨hl, fun r => ?_⟩
      dsimp only
      split
      · exact ⟨hk, fun _ => sample ..⟩
      · exact ih
  cases i with
  | init n => exact all_checked fun a => ⟨hi n rfl a, trivial⟩
  | deinit => exact all_require ⟨hd, trivial⟩
  | readRegister r =>
    exact all_require (all_checked fun p => all_memRead (hf _ (by simp)) (hf _ (by simp)) (fun _ => trivial) fun _ => trivial)
  | writeRegister r v =>
    refine all_require (all_checked fun p => ?_)
    cases p
    · exact config _ _ _ _ (by simp)
    · exact all_memWrite (hf _ (by simp)) (fun _ => trivial) trivial
    · exact all_memWrite (hf _ (by simp)) (fun _ => trivial) trivial
  | buildConfig => exact all_checked fun _ => trivial
  | decodeConfig => trivial
  | scaleToVoltage => exact all_checked fun _ => trivial
  | voltsToCode => exact all_checked fun _ => trivial
  | startSingleShot => exact all_require (all_checked fun _ => config _ _ _ _ (by decide))
  | pollUntilReady => exact all_require (all_checked fun _ => poll ..)
  | readConversion => exact all_require (gain _ _ _ fun _ => sample ..)
  | startContinuous => exact all_require (all_checked fun _ => config _ _ _ _ (by decide))
  | delay ms =>
    refine all_require ?_
    split
    · refine ⟨hw _, fun r => ?_⟩
      dsimp only
      split <;> trivial
    · trivial
  | setThresholds => exact all_require (thresholds _ _ _ _ _ (fun _ => trivial) trivial)
  | enableComparator => exact all_require (all_checked fun _ => config _ _ _ _ (by decide))
  | armComparator =>
    exact all_require (all_checked fun _ => thresholds _ _ _ _ _ (fun _ => trivial) (config _ _ _ _ (by decide)))
  | disableComparator => exact all_require (config _ _ _ _ (by simp))
  | armAlertLine =>
    refine all_require ⟨ha, fun r => ?_⟩
    dsimp only
    split
    · trivial
    · split
      · exact all_writeConfig (hc _ _ (by simp)) (fun _ => trivial) trivial
      · trivial
  | disarmAlertLine => exact all_require ⟨hm, trivial⟩
  | clearAlertFlag => exact all_require ⟨hk, fun _ => trivial⟩
  | waitForAlert => exact all_require (gain _ _ _ fun _ => alert ..)
  | ptr => exact raw _ (hf _ (by simp))
  | wrConversion => trivial
  | wrConfig a v => exact raw _ (hr a v rfl)
  | wrLoThresh => exact raw _ (hf _ (by simp))
  | wrHiThresh => exact raw _ (hf _ (by simp))
  | rd => exact raw _ (hf _ (by simp))

/-- What is left of a routine takes only steps the routine takes. -/
theorem all_replay {m : Routine} (h : m.All P Q) (replies : List Reply) : (m.replay replies).All P Q := by
  induction m generalizing replies with
  | done | hold | refuse => exact h
  | set u rest ih =>
    cases replies with
    | nil => exact h
    | cons r rs => exact ih h.2 _
  | ask a next ih =>
    cases replies with
    | nil => exact h
    | cons r rs => exact ih r (h.2 r) rs

end All

/-- An update a command other than `init` may make. -/
def Update.ordinary : Update → Prop
  | .engine e => e ≠ .configuring
  | .create _ => False
  | .kill => True
  | .disarm => True

/-- A controller step a command other than a raw Config write may take. -/
def Action.ordinary : Action → Prop
  | .tx f => ∀ x w, f ≠ .wr x .config w
  | .config _ after => after ≠ some .configuring
  | .arm => True
  | .look => True
  | .clearFlag => True
  | .waits _ => True

/-- Every command but `init` and a raw Config write is made of ordinary steps. -/
theorem routine_ordinary {i : Instr} {h : Handle} {holding : Bool} (hi : ∀ n, i ≠ .init n) (hw : ∀ a v, i ≠ .wrConfig a v) :
    (routine i h holding).All Update.ordinary Action.ordinary :=
  routine_all (fun _ h => h) (fun _ _ h => h) trivial trivial trivial (fun _ => trivial) (fun _ h => h) trivial trivial
    i h holding (fun n e => absurd e (hi n)) (fun a v e => absurd e (hw a v))

/-- An update that keeps a handle legal: its engine does not rest in Configuring, and a new one has an address of the
map (R32, R108). -/
def Update.legal : Update → Prop
  | .engine e => e ≠ .configuring
  | .create x => (Strap.ofAddr x).isSome = true
  | .kill => True
  | .disarm => True

/-- A controller step that keeps a handle legal. -/
def Action.legal : Action → Prop
  | .tx _ => True
  | .config _ after => after ≠ some .configuring
  | .arm => True
  | .look => True
  | .clearFlag => True
  | .waits _ => True

/-- Every command keeps its handle legal at every step. -/
theorem routine_legal (i : Instr) (h : Handle) (holding : Bool) : (routine i h holding).All Update.legal Action.legal :=
  routine_all (fun _ _ => trivial) (fun _ _ h => h) trivial trivial trivial (fun _ => trivial) (fun _ h => h) trivial
    trivial i h holding (fun _ _ a => by simp [Update.legal]) (fun _ _ _ => trivial)

/-! ### Routines that end in a next state -/

/-- The routine refuses nowhere, whatever the answers. -/
def Routine.Ends : Routine → Prop
  | .done _ _ => True
  | .hold => True
  | .refuse _ => False
  | .set _ rest => rest.Ends
  | .ask _ next => ∀ r, (next r).Ends

/-- A routine that refuses nowhere answers a next state. -/
theorem run_ends {m : Routine} (h : m.Ends) (begun : Bool) (s : State) : ∃ t, m.run begun s = .next t := by
  induction m generalizing begun s with
  | done => exact ⟨_, rfl⟩
  | hold => exact ⟨_, rfl⟩
  | refuse => exact h.elim
  | set u rest ih => exact ih h _ _
  | ask a next ih => exact ih _ (h _) _ _

theorem memRead_ends {x : Addr} {p : Reg} {onFail : HostError → Routine} {onRead : Word → Routine}
    (hf : ∀ e, (onFail e).Ends) (hv : ∀ v, (onRead v).Ends) : (memRead x p onFail onRead).Ends := by
  intro r1
  dsimp only
  split
  · exact hf _
  · intro r2
    dsimp only
    split
    · exact hf _
    · exact hv _

theorem readSample_ends (op : Byte) (g : Gain) (x : Addr) : (readSample op g x).Ends :=
  memRead_ends (fun _ => trivial) fun _ => trivial

theorem pollLoop_ends (r : DataRate) (n : Nat) (x : Addr) (left : Nat) : (pollLoop r n x left).Ends := by
  induction left with
  | zero => trivial
  | succ k ih =>
    refine memRead_ends (fun _ => trivial) fun v => ?_
    split
    · trivial
    · exact ih

theorem alertLoop_ends (g : Gain) (k n : Nat) (x : Addr) (left : Nat) : (alertLoop g k n x left).Ends := by
  induction left with
  | zero => trivial
  | succ m ih =>
    intro r
    dsimp only
    split
    · intro _; exact readSample_ends _ g x
    · exact ih

/-! ### Micro steps of the running session -/

/-- One thing a command does to the state. -/
inductive Micro : State → State → Prop
  /-- The other agents step (R46). -/
  | gap (s : State) : Micro s s.gap
  /-- A draw is taken (R13). -/
  | draws (s : State) (e : Env) : Micro s { s with env := e }
  /-- A frame other than a Config write is acknowledged (R73). -/
  | acked (s : State) (f : Frame) (bytes : List Byte) (h : ∀ x w, f ≠ .wr x .config w) :
      Micro s { s with devices := s.devices.deliver f, wire := sentAck f bytes :: s.wire }
  /-- The controller's Config write is acknowledged and committed (R92). -/
  | configured (s : State) (w : Word) : Micro s { s with
      devices := s.devices.deliver (.wr s.handle.addr .config w)
      handle := s.handle.commit w
      wire := sentAck (.wr s.handle.addr .config w) [] :: s.wire }
  /-- A frame fails (R73). -/
  | failed (s : State) (f : Frame) (how : BusFailure) (took : Bool) : Micro s { s with
      devices := if took = true then s.devices.deliver f else s.devices
      wire := sentFail f how :: s.wire }
  /-- The engine moves, never to rest in Configuring (R108). -/
  | engine (s : State) (e : Engine) (h : e ≠ .configuring) : Micro s (s.setEngine e)
  /-- The controller writes the interrupt line (R132 to R136). -/
  | line (s : State) (l : Line) : Micro s { s with line := l }
  /-- The handle dies (R110). -/
  | dies (s : State) : Micro s { s with handle := { s.handle with live := false } }
  /-- A result is recorded (R139). -/
  | answer (s : State) (op : Option Byte) (a : Answer) : Micro s (s.answer op a)
  /-- A delay holds (R117). -/
  | hold (s : State) : Micro s { s with host := { s.host with holding := true } }

/-- A sequence of micro steps. -/
abbrev Micros := Relation.ReflTransGen Micro

/-- One micro step after a sequence. -/
theorem Micros.step {s t u : State} (h : Micros s t) (m : Micro t u) : Micros s u := h.tail m

/-- A controller step is a sequence of micro steps. -/
theorem perform_micros (s : State) (a : Action) (h : a.ordinary) : Micros s (s.perform a).2 := by
  unfold State.perform
  generalize s.env.drawsFor s.devices s.handle.addr a = draws
  obtain ⟨w, e⟩ := draws
  have d : Micros s { s with env := e } := .single (.draws s e)
  cases a with
  | tx f =>
    obtain ⟨d', -, hb⟩ | ⟨how, took, hb⟩ := busTx_cases s.devices f w <;> simp only [Machine.perform, hb]
    · exact d.step (.acked { s with env := e } f _ h)
    · exact d.step (.failed { s with env := e } f how took)
  | config v after =>
    obtain ⟨d', -, hb⟩ | ⟨how, took, hb⟩ := busTx_cases s.devices (.wr s.handle.addr .config v) w <;>
      simp only [Machine.perform, hb]
    · have c := d.step (.configured { s with env := e } v)
      cases after with
      | none => exact c
      | some x => exact c.step (.engine _ x (by rintro rfl; exact h rfl))
    · have c := d.step (.failed { s with env := e } (.wr s.handle.addr .config v) how took)
      cases after with
      | none => exact c
      | some x => exact c.step (.engine _ .idle (by decide))
  | arm => exact d.step (.line { s with env := e } _)
  | look => exact d
  | clearFlag => exact d.step (.line { s with env := e } _)
  | waits b => exact d

/-- An update is a sequence of micro steps. -/
theorem update_micros (s : State) (u : Update) (h : u.ordinary) : Micros s (s.update u) := by
  cases u with
  | engine e => exact .single (.engine s e h)
  | create x => exact absurd h id
  | kill => exact (Relation.ReflTransGen.single (Micro.line s { s.line with armed := false })).tail (.dies _)
  | disarm => exact .single (.line s _)

/-- A routine of ordinary steps, run whole, is a sequence of micro steps. -/
theorem run_micros {m : Routine} {begun : Bool} {s t : State} (h : m.All Update.ordinary Action.ordinary)
    (hr : m.run begun s = .next t) : Micros s t := by
  induction m generalizing begun s with
  | done op a => cases hr; exact .single (.answer s op a)
  | hold => cases hr; exact .single (.hold s)
  | refuse r => cases hr
  | set u rest ih => exact (update_micros s u h.1).trans (ih h.2 hr)
  | ask a next ih =>
    refine Relation.ReflTransGen.trans ?_ (ih _ (h.2 _) hr)
    cases begun
    · exact perform_micros s a h.1
    · exact (Relation.ReflTransGen.single (.gap s)).trans (perform_micros s.gap a h.1)

/-- Every command but `init` and a raw Config write is a sequence of micro steps. -/
theorem exec_micros {i : Instr} {s t : State} (h : exec i s = .next t) (hi : ∀ n, i ≠ .init n)
    (hw : ∀ a v, i ≠ .wrConfig a v) : Micros s t := by
  rw [exec_eq_run] at h
  exact run_micros (routine_ordinary hi hw) h

/-- The wire only grows. -/
theorem Micro.wire {s t : State} (m : Micro s t) : ∃ sent, t.wire = sent ++ s.wire := by
  cases m with
  | gap =>
    obtain ⟨-, -, -, -, sent, h, -⟩ := s.agentSteps_keeps s.env.nextGap.1
    exact ⟨sent, h⟩
  | acked f d h => exact ⟨[_], rfl⟩
  | configured w => exact ⟨[_], rfl⟩
  | failed f how took => exact ⟨[_], rfl⟩
  | draws => exact ⟨[], rfl⟩
  | engine => exact ⟨[], rfl⟩
  | line => exact ⟨[], rfl⟩
  | dies => exact ⟨[], rfl⟩
  | answer => exact ⟨[], rfl⟩
  | hold => exact ⟨[], rfl⟩

/-- The controller's address never changes within a command, and its host's program is left alone. -/
theorem Micro.keeps {s t : State} (m : Micro s t) :
    t.handle.addr = s.handle.addr ∧ t.host.pending = s.host.pending ∧ t.host.index = s.host.index ∧
    t.host.status = s.host.status := by
  cases m <;> exact ⟨rfl, rfl, rfl, rfl⟩

end Sys2Proof.Machine
end

