-- ==== Sys2Proof/Laws/PerInstr.lean ====
section
/-! SUPPORT. Per-instruction law: the bytes `encode` writes meet the match and mask of the instruction's own row of
spec/opcode_table.json, read in transmission order, and a bus frame has exactly its row's bytes. -/

namespace Sys2Proof.Laws.TableMatch

/-- Each byte under its mask is the row's value. -/
def Meets : List (Byte × Byte) → List Byte → Prop
  | [], _ => True
  | (_, _) :: _, [] => False
  | (mask, value) :: rows, b :: bytes => b &&& mask = value ∧ Meets rows bytes

/-- The row of an instruction: mask and match of each byte, first transmitted byte first. -/
def row : Instr → List (Byte × Byte)
  | .init _ => [(0xFF#8, 0x01#8)]
  | .deinit => [(0xFF#8, 0x02#8)]
  | .readRegister _ => [(0xFF#8, 0x10#8)]
  | .writeRegister _ _ => [(0xFF#8, 0x11#8)]
  | .buildConfig _ _ _ _ _ _ _ _ _ => [(0xFF#8, 0x20#8)]
  | .decodeConfig _ => [(0xFF#8, 0x21#8)]
  | .scaleToVoltage _ _ => [(0xFF#8, 0x22#8)]
  | .voltsToCode _ _ => [(0xFF#8, 0x23#8)]
  | .startSingleShot _ _ => [(0xFF#8, 0x30#8)]
  | .pollUntilReady _ => [(0xFF#8, 0x31#8)]
  | .readConversion _ => [(0xFF#8, 0x32#8)]
  | .startContinuous _ _ _ => [(0xFF#8, 0x33#8)]
  | .delay _ => [(0xFF#8, 0x34#8)]
  | .setThresholds _ _ => [(0xFF#8, 0x40#8)]
  | .enableComparator _ _ _ _ _ _ => [(0xFF#8, 0x41#8)]
  | .armComparator _ _ _ _ _ _ _ _ => [(0xFF#8, 0x42#8)]
  | .disableComparator => [(0xFF#8, 0x43#8)]
  | .armAlertLine => [(0xFF#8, 0x44#8)]
  | .disarmAlertLine => [(0xFF#8, 0x45#8)]
  | .clearAlertFlag => [(0xFF#8, 0x46#8)]
  | .waitForAlert _ _ => [(0xFF#8, 0x47#8)]
  | .ptr _ _ => [(0xF9#8, 0x90#8), (0xFC#8, 0x00#8)]
  | .wrConversion _ _ => [(0xF9#8, 0x90#8), (0xFF#8, 0x00#8), (0x00#8, 0x00#8), (0x00#8, 0x00#8)]
  | .wrConfig _ _ => [(0xF9#8, 0x90#8), (0xFF#8, 0x01#8), (0x00#8, 0x00#8), (0x00#8, 0x00#8)]
  | .wrLoThresh _ _ => [(0xF9#8, 0x90#8), (0xFF#8, 0x02#8), (0x00#8, 0x00#8), (0x00#8, 0x00#8)]
  | .wrHiThresh _ _ => [(0xF9#8, 0x90#8), (0xFF#8, 0x03#8), (0x00#8, 0x00#8), (0x00#8, 0x00#8)]
  | .rd _ => [(0xF9#8, 0x91#8), (0x00#8, 0x00#8), (0x00#8, 0x00#8)]

/-- A bus frame's row covers the whole frame; a host command's row covers its opcode byte. -/
def isFrame : Instr → Bool
  | .init _ => false
  | .deinit => false
  | .readRegister _ => false
  | .writeRegister _ _ => false
  | .buildConfig _ _ _ _ _ _ _ _ _ => false
  | .decodeConfig _ => false
  | .scaleToVoltage _ _ => false
  | .voltsToCode _ _ => false
  | .startSingleShot _ _ => false
  | .pollUntilReady _ => false
  | .readConversion _ => false
  | .startContinuous _ _ _ => false
  | .delay _ => false
  | .setThresholds _ _ => false
  | .enableComparator _ _ _ _ _ _ => false
  | .armComparator _ _ _ _ _ _ _ _ => false
  | .disableComparator => false
  | .armAlertLine => false
  | .disarmAlertLine => false
  | .clearAlertFlag => false
  | .waitForAlert _ _ => false
  | .ptr _ _ => true
  | .wrConversion _ _ => true
  | .wrConfig _ _ => true
  | .wrLoThresh _ _ => true
  | .wrHiThresh _ _ => true
  | .rd _ => true

/-- The instruction's bytes are those of its row. -/
def Statement (i : Instr) : Prop :=
  Meets (row i) (encode i) ∧ (isFrame i = true → (encode i).length = (row i).length)

theorem init (a : Nat) : Statement (.init a) := ⟨⟨by decide, trivial⟩, nofun⟩

theorem deinit : Statement (.deinit) := ⟨⟨by decide, trivial⟩, nofun⟩

theorem readRegister (r : Nat) : Statement (.readRegister r) := ⟨⟨by decide, trivial⟩, nofun⟩

theorem writeRegister (r : Nat) (v : Word) : Statement (.writeRegister r v) := ⟨⟨by decide, trivial⟩, nofun⟩

theorem buildConfig (c g m d cm p l q : Nat) (t : Bool) : Statement (.buildConfig c g m d cm p l q t) := ⟨⟨by decide, trivial⟩, nofun⟩

theorem decodeConfig (w : Word) : Statement (.decodeConfig w) := ⟨⟨by decide, trivial⟩, nofun⟩

theorem scaleToVoltage (w : Word) (g : Nat) : Statement (.scaleToVoltage w g) := ⟨⟨by decide, trivial⟩, nofun⟩

theorem voltsToCode (v : F64) (g : Nat) : Statement (.voltsToCode v g) := ⟨⟨by decide, trivial⟩, nofun⟩

theorem startSingleShot (c g : Nat) : Statement (.startSingleShot c g) := ⟨⟨by decide, trivial⟩, nofun⟩

theorem pollUntilReady (d : Nat) : Statement (.pollUntilReady d) := ⟨⟨by decide, trivial⟩, nofun⟩

theorem readConversion (g : Nat) : Statement (.readConversion g) := ⟨⟨by decide, trivial⟩, nofun⟩

theorem startContinuous (c g d : Nat) : Statement (.startContinuous c g d) := ⟨⟨by decide, trivial⟩, nofun⟩

theorem delay (ms : Nat) : Statement (.delay ms) := ⟨⟨by decide, trivial⟩, nofun⟩

theorem setThresholds (lo hi : Word) : Statement (.setThresholds lo hi) := ⟨⟨by decide, trivial⟩, nofun⟩

theorem enableComparator (c g cm p l q : Nat) : Statement (.enableComparator c g cm p l q) := ⟨⟨by decide, trivial⟩, nofun⟩

theorem armComparator (c g cm p l q : Nat) (lo hi : F64) : Statement (.armComparator c g cm p l q lo hi) := ⟨⟨by decide, trivial⟩, nofun⟩

theorem disableComparator : Statement (.disableComparator) := ⟨⟨by decide, trivial⟩, nofun⟩

theorem armAlertLine : Statement (.armAlertLine) := ⟨⟨by decide, trivial⟩, nofun⟩

theorem disarmAlertLine : Statement (.disarmAlertLine) := ⟨⟨by decide, trivial⟩, nofun⟩

theorem clearAlertFlag : Statement (.clearAlertFlag) := ⟨⟨by decide, trivial⟩, nofun⟩

theorem waitForAlert (k g : Nat) : Statement (.waitForAlert k g) := ⟨⟨by decide, trivial⟩, nofun⟩

theorem ptr (a : Strap) (p : Reg) : Statement (.ptr a p) := by
  cases a <;> cases p <;> exact ⟨⟨by decide, by decide, trivial⟩, fun _ => rfl⟩

theorem wrConversion (a : Strap) (v : Word) : Statement (.wrConversion a v) := by
  cases a <;> exact ⟨⟨by decide, by decide, by simp, by simp, trivial⟩, fun _ => rfl⟩

theorem wrConfig (a : Strap) (v : Word) : Statement (.wrConfig a v) := by
  cases a <;> exact ⟨⟨by decide, by decide, by simp, by simp, trivial⟩, fun _ => rfl⟩

theorem wrLoThresh (a : Strap) (v : Word) : Statement (.wrLoThresh a v) := by
  cases a <;> exact ⟨⟨by decide, by decide, by simp, by simp, trivial⟩, fun _ => rfl⟩

theorem wrHiThresh (a : Strap) (v : Word) : Statement (.wrHiThresh a v) := by
  cases a <;> exact ⟨⟨by decide, by decide, by simp, by simp, trivial⟩, fun _ => rfl⟩

theorem rd (a : Strap) : Statement (.rd a) := by
  cases a <;> exact ⟨⟨by decide, by decide, by decide, trivial⟩, fun _ => rfl⟩

end Sys2Proof.Laws.TableMatch
end

