-- ==== Sys2Proof/Tests/Slice0.lean ====
section
/-! SUPPORT. Tests: ill-formed terms the check refuses, words written out from the spec's encodings, single steps from
the vectors of 95_test_vectors.md, and a state that meets the hypotheses of each obligation. -/

namespace Sys2Proof.Tests

open Sys2Proof Sys2Proof.Machine

set_option Elab.async false

/-! ### Helpers -/

/-- A handle at GND over device `d`; the bus acknowledges and no other agent steps. -/
def world (d : Device) (cache : Option Word) (e : Engine) : State :=
  { State.reset with
    devices := { State.reset.devices with gnd := some d }
    handle := { addr := 0x48#7, cache, gain := cache.map fun c => (fieldsOf c).gain, engine := e, live := true }
    env := { Env.reset with
      frames := List.replicate 5 .ack, gaps := List.replicate 5 [], arms := [true], osReads := [true] } }

/-- The device at reset. -/
def fresh0 : Device := Device.reset

/-- A free-running device with thresholds −8000 and 8000 and Config 0x4294 (program P3). -/
def windowed : Device :=
  { Device.reset with cfg := 0x4294#15, low := 0xE0C0#16, high := 0x1F40#16, mode := .continuous }

/-- The start state of most vectors: a new handle over a device at reset. -/
def w0 : State := world fresh0 none .idle

/-- `s` with these answers of the bus. -/
def withFrames (s : State) (fs : List BusAnswer) : State := { s with env := { s.env with frames := fs } }

/-- The result of a command. -/
def result : Out → Option Answer
  | .next t => t.host.report.map fun r => r.answer
  | .fault _ => none
  | .refused _ => none

/-- The bytes the controller sent, frame by frame, oldest first. -/
def sent : Out → List (List Byte)
  | .next t => (t.wire.map fun x => x.frame.sent).reverse
  | .fault _ => []
  | .refused _ => []

/-- Whole frames as they crossed the bus, the device's bytes included, oldest first. -/
def frameBytes : Out → List (List Byte)
  | .next t => (t.wire.map Transfer.bytes).reverse
  | .fault _ => []
  | .refused _ => []

/-- The device at GND afterwards. -/
def device : Out → Option Device
  | .next t => t.devices.gnd
  | .fault _ => none
  | .refused _ => none

/-- The handle afterwards. -/
def handle : Out → Option Handle
  | .next t => some t.handle
  | .fault _ => none
  | .refused _ => none

/-- The line afterwards. -/
def line : Out → Option Line
  | .next t => some t.line
  | .fault _ => none
  | .refused _ => none

/-- The refusal. -/
def refusal : Out → Option Refusal
  | .next _ => none
  | .fault _ => none
  | .refused r => some r

/-! ### Well-formedness: an index beyond its byte is refused, in each position -/

theorem test_wf_init : (Instr.init 256).wf = false := by decide
theorem test_wf_readRegister : (Instr.readRegister 256).wf = false := by decide
theorem test_wf_writeRegister : (Instr.writeRegister 256 0#16).wf = false := by decide
theorem test_wf_buildConfig :
    [Instr.buildConfig 256 0 0 0 0 0 0 0 false, .buildConfig 0 256 0 0 0 0 0 0 false, .buildConfig 0 0 256 0 0 0 0 0 false,
     .buildConfig 0 0 0 256 0 0 0 0 false, .buildConfig 0 0 0 0 256 0 0 0 false, .buildConfig 0 0 0 0 0 256 0 0 false,
     .buildConfig 0 0 0 0 0 0 256 0 false, .buildConfig 0 0 0 0 0 0 0 256 false].all (fun i => !i.wf) = true := by decide
theorem test_wf_scaler : (Instr.scaleToVoltage 0#16 256).wf = false ∧ (Instr.voltsToCode 0#64 256).wf = false := by
  decide
theorem test_wf_conversion :
    [Instr.startSingleShot 256 0, .startSingleShot 0 256, .pollUntilReady 256, .readConversion 256,
     .startContinuous 256 0 0, .startContinuous 0 256 0, .startContinuous 0 0 256, .waitForAlert 0 256].all
      (fun i => !i.wf) = true := by decide
theorem test_wf_enableComparator :
    [Instr.enableComparator 256 0 0 0 0 0, .enableComparator 0 256 0 0 0 0, .enableComparator 0 0 256 0 0 0,
     .enableComparator 0 0 0 256 0 0, .enableComparator 0 0 0 0 256 0, .enableComparator 0 0 0 0 0 256].all
      (fun i => !i.wf) = true := by decide
theorem test_wf_armComparator :
    [Instr.armComparator 256 0 0 0 0 0 0 0, .armComparator 0 256 0 0 0 0 0 0, .armComparator 0 0 256 0 0 0 0 0,
     .armComparator 0 0 0 256 0 0 0 0, .armComparator 0 0 0 0 256 0 0 0, .armComparator 0 0 0 0 0 256 0 0].all
      (fun i => !i.wf) = true := by decide
theorem test_wf_accepts : (Instr.init 255).wf = true ∧ (Instr.delay 100000).wf = true := by decide

/-! ### Decoding: words written out from R51 to R54 and R67 -/

theorem test_decode_init : decode [0x01#8, 0x03#8] = .ok (.init 3) := by decide
theorem test_decode_deinit : decode [0x02#8] = .ok .deinit := by decide
theorem test_decode_readRegister : decode [0x10#8, 0x02#8] = .ok (.readRegister 2) := by decide
theorem test_decode_writeRegister : decode [0x11#8, 0x01#8, 0x57#8, 0xFD#8] = .ok (.writeRegister 1 0x57FD#16) := by
  decide
theorem test_decode_buildConfig :
    decode [0x20#8, 0x07#8, 0x05#8, 0x01#8, 0x06#8, 0x00#8, 0x01#8, 0x00#8, 0x04#8, 0x01#8]
      = .ok (.buildConfig 7 5 1 6 0 1 0 4 true) := by decide
theorem test_decode_decodeConfig : decode [0x21#8, 0x42#8, 0x94#8] = .ok (.decodeConfig 0x4294#16) := by decide
theorem test_decode_scaleToVoltage : decode [0x22#8, 0xF8#8, 0x30#8, 0x05#8] = .ok (.scaleToVoltage 0xF830#16 5) := by
  decide
theorem test_decode_voltsToCode :
    decode [0x23#8, 0x3F#8, 0xF0#8, 0#8, 0#8, 0#8, 0#8, 0#8, 0x01#8, 0x02#8]
      = .ok (.voltsToCode 0x3FF0000000000001#64 2) := by decide
theorem test_decode_startSingleShot : decode [0x30#8, 0x04#8, 0x02#8] = .ok (.startSingleShot 4 2) := by decide
theorem test_decode_pollUntilReady : decode [0x31#8, 0x07#8] = .ok (.pollUntilReady 7) := by decide
theorem test_decode_readConversion : decode [0x32#8, 0x05#8] = .ok (.readConversion 5) := by decide
theorem test_decode_startContinuous : decode [0x33#8, 0x04#8, 0x01#8, 0x07#8] = .ok (.startContinuous 4 1 7) := by decide
theorem test_decode_delay :
    decode [0x34#8, 0x08#8] = .ok (.delay 8) ∧ decode [0x34#8, 0xAC#8, 0x02#8] = .ok (.delay 300) ∧
    decode [0x34#8, 0x80#8, 0x00#8] = .error .notAnInteger ∧ decode [0x34#8, 0x00#8] = .ok (.delay 0) := by decide
theorem test_decode_setThresholds :
    decode [0x40#8, 0xE0#8, 0xC0#8, 0x1F#8, 0x40#8] = .ok (.setThresholds 0xE0C0#16 0x1F40#16) := by decide
theorem test_decode_enableComparator :
    decode [0x41#8, 0x04#8, 0x01#8, 0x01#8, 0x00#8, 0x01#8, 0x02#8] = .ok (.enableComparator 4 1 1 0 1 2) := by decide
theorem test_decode_armComparator :
    decode [0x42#8, 0x04#8, 0x01#8, 0x01#8, 0x00#8, 0x01#8, 0x02#8, 0xBF#8, 0xF0#8, 0#8, 0#8, 0#8, 0#8, 0#8, 0#8,
      0x3F#8, 0xF0#8, 0#8, 0#8, 0#8, 0#8, 0#8, 0x07#8]
      = .ok (.armComparator 4 1 1 0 1 2 0xBFF0000000000000#64 0x3FF0000000000007#64) := by decide
theorem test_decode_disableComparator : decode [0x43#8] = .ok .disableComparator := by decide
theorem test_decode_armAlertLine : decode [0x44#8] = .ok .armAlertLine := by decide
theorem test_decode_disarmAlertLine : decode [0x45#8] = .ok .disarmAlertLine := by decide
theorem test_decode_clearAlertFlag : decode [0x46#8] = .ok .clearAlertFlag := by decide
theorem test_decode_waitForAlert :
    decode [0x47#8, 0x04#8, 0x01#8] = .ok (.waitForAlert 4 1) ∧
    decode [0x47#8, 0xAC#8, 0x02#8, 0x05#8] = .ok (.waitForAlert 300 5) := by decide
theorem test_decode_ptr : decode [0b10010010#8, 0b00000010#8] = .ok (.ptr .vdd .low) := by decide
theorem test_decode_wrConversion :
    decode [0b10010000#8, 0b00000000#8, 0x12#8, 0x34#8] = .ok (.wrConversion .gnd 0x1234#16) := by decide
theorem test_decode_wrConfig :
    decode [0b10010110#8, 0b00000001#8, 0xC5#8, 0x83#8] = .ok (.wrConfig .scl 0xC583#16) := by decide
theorem test_decode_wrLoThresh :
    decode [0b10010100#8, 0b00000010#8, 0xE0#8, 0xC0#8] = .ok (.wrLoThresh .sda 0xE0C0#16) := by decide
theorem test_decode_wrHiThresh :
    decode [0b10010010#8, 0b00000011#8, 0x1F#8, 0x40#8] = .ok (.wrHiThresh .vdd 0x1F40#16) := by decide
theorem test_decode_rd : decode [0b10010101#8, 0x7F#8, 0xFF#8] = .ok (.rd .sda) := by decide

/-- Reserved and misshapen strings are rejected by name (R54, R70, R78). -/
theorem test_decode_rejects :
    decode [] = .error .emptyString ∧ decode [0x00#8] = .error .unknownOpcode ∧ decode [0x35#8] = .error .unknownOpcode ∧
    decode [0x98#8, 0x00#8] = .error .unknownOpcode ∧ decode [0x90#8] = .error .frameLength ∧
    decode [0x90#8, 0x00#8, 0x12#8, 0x34#8, 0x56#8] = .error .frameLength ∧ decode [0x91#8, 0x00#8] = .error .frameLength ∧
    decode [0x90#8, 0x80#8, 0x12#8, 0x34#8] = .error .reservedPointer ∧ decode [0x02#8, 0x00#8] = .error .operandBytes ∧
    decode [0x20#8, 0#8, 0#8, 0#8, 0#8, 0#8, 0#8, 0#8, 0#8, 2#8] = .error .notABool := by decide

/-! ### One step each: raw bus frames -/

/-- WR 0x48, 1, 0xC583 from PowerDown: SingleConverting (V-CNV-1). -/
theorem test_wrConfig_triggers : device (exec (.wrConfig .gnd 0xC583#16) w0)
    = some { fresh0 with ptr := .config, cfg := 0x4583#15, mode := .singleConverting } := by decide
/-- From SingleConverting the trigger is ignored, from Continuous it converts once (V-CNV-3, V-CNV-5). -/
theorem test_wrConfig_modes :
    modeAfterWrite 0xC583#16 .singleConverting = .singleConverting ∧ modeAfterWrite 0xC583#16 .continuous = .singleConverting ∧
    modeAfterWrite 0x4583#16 .powerDown = .powerDown ∧ modeAfterWrite 0x4283#16 .powerDown = .continuous := by decide
theorem test_ptr_sets_pointer : device (exec (.ptr .gnd .high) w0) = some { fresh0 with ptr := .high } := by decide
theorem test_wrLoThresh_stores : device (exec (.wrLoThresh .gnd 0xE0C0#16) w0)
    = some { fresh0 with ptr := .low, low := 0xE0C0#16 } := by decide
theorem test_wrHiThresh_stores : device (exec (.wrHiThresh .gnd 0x1F40#16) w0)
    = some { fresh0 with ptr := .high, high := 0x1F40#16 } := by decide
theorem test_wrConversion_refused : refusal (exec (.wrConversion .gnd 0x1234#16) w0) = some .writeToConversion := by
  decide
/-- RD with the pointer at Config in PowerDown: OS reads 1, and the device sends 85 before 83 (V-ACC-2, R42). -/
theorem test_rd_config :
    let r := exec (.rd .gnd) (world { fresh0 with ptr := .config } none .idle)
    result r = some (.frameAck (some 0x8583#16)) ∧ frameBytes r = [[0x91#8, 0x85#8, 0x83#8]] := by decide
/-- The bytes of a read join with the first received in bits 15:8 (R42). -/
theorem test_joinBytes : joinBytes [0x12#8, 0x34#8] = 0x1234#16 ∧ wordBytes 0xE0C0#16 = [0xE0#8, 0xC0#8] := by decide
/-- A Conversion read clears a latched alert (R123). -/
theorem test_rd_clears_latch :
    (device (exec (.rd .gnd) (world { windowed with alert := true, conversion := 0x3E80#16 } none .idle))).map
      (fun d => (d.alert, d.conversion)) = some (false, 0x3E80#16) := by decide

/-! ### One step each: register access -/

/-- V-ACC-2. -/
theorem test_readRegister_config :
    result (exec (.readRegister 1) w0) = some (.done (.word 0x8583#16)) ∧
    sent (exec (.readRegister 1) w0) = [[0x90#8, 0x01#8], [0x91#8]] := by decide
/-- V-ACC-13: the latch is cleared and the value lost. -/
theorem test_readRegister_lost_value :
    let s := withFrames (world { windowed with alert := true } none .idle) [.ack, .nak true]
    result (exec (.readRegister 0) s) = some (.failed (.transport .nak .rd .conversion) none) ∧
    (device (exec (.readRegister 0) s)).map (fun d => d.alert) = some false := by decide
/-- V-ACC-9. -/
theorem test_writeRegister_config :
    handle (exec (.writeRegister 1 0x0583#16) w0)
      = some { w0.handle with cache := some 0x0583#16, gain := some .fs2048 } ∧
    device (exec (.writeRegister 1 0x0583#16) w0) = some { fresh0 with ptr := .config, cfg := 0x0583#15 } := by decide
/-- V-ACC-11: the device took the write, the cache did not. -/
theorem test_writeRegister_nak :
    let s := withFrames w0 [.nak true]
    result (exec (.writeRegister 1 0x8583#16) s) = some (.failed (.transport .nak .wr .config) none) ∧
    (device (exec (.writeRegister 1 0x8583#16) s)).map (fun d => d.mode) = some .singleConverting ∧
    handle (exec (.writeRegister 1 0x8583#16) s) = some w0.handle := by decide

/-! ### One step each: configuration word -/

/-- V-ENC-5. -/
theorem test_buildConfig : result (exec (.buildConfig 5 1 1 6 0 1 0 1 false) w0) = some (.done (.word 0x53C8#16)) := by
  decide
/-- V-ENC-7a, V-ENC-7b. -/
theorem test_buildConfig_rejects :
    result (exec (.buildConfig 0 6 0 0 0 0 0 1 false) w0) = some (.failed (.config .gain) none) ∧
    result (exec (.buildConfig 0 0 0 0 0 0 0 3 false) w0) = some (.failed (.config .queueDepth) none) := by decide
/-- The 0x4294 row of §2.2. -/
theorem test_decodeConfig : result (exec (.decodeConfig 0x4294#16) w0)
    = some (.done (.fields ⟨false, .ain0Gnd, .fs4096, .continuous, .sps128, .window, .activeLow, .latching, .one⟩)) := by
  decide
/-- The alias row 0x0C00 of §2.2. -/
theorem test_decodeConfig_alias : (fieldsOf 0x0C00#16).gain = .fs0256 ∧ buildWord (fieldsOf 0xFFFF#16) = 0xFBFF#16 := by
  decide

/-! ### One step each: scaler -/

/-- §2.3: 16000 at FS_4_096 is 2.0, and −2000 at FS_0_256 is −0.015625. -/
theorem test_scaleToVoltage :
    result (exec (.scaleToVoltage 16000#16 1) w0) = some (.done (.volts 0x4000000000000000#64)) ∧
    result (exec (.scaleToVoltage 0xF830#16 5) w0) = some (.done (.volts 0xBF90000000000000#64)) := by decide +kernel
/-- E4: 32767 at FS_2_048 is the binary64 value 2.0479375000000001883. -/
theorem test_scaleToVoltage_top : rawToVolts 0x7FFF#16 .fs2048 = 0x4000622D0E560419#64 := by decide +kernel
/-- §2.3: −1.0 V at FS_4_096 is −8000; the tie 3.90625e-06 V at FS_0_256 is 1. -/
theorem test_voltsToCode :
    result (exec (.voltsToCode 0xBFF0000000000000#64 1) w0) = some (.done (.code 0xE0C0#16)) ∧
    result (exec (.voltsToCode 0x3ED0624DD2F1A9FC#64 5) w0) = some (.done (.code 0x0001#16)) := by decide +kernel
/-- §2.3: 10.0 V clamps, +∞ is a ConfigError. -/
theorem test_voltsToCode_ends :
    result (exec (.voltsToCode 0x4024000000000000#64 1) w0) = some (.done (.code 0x7FFF#16)) ∧
    result (exec (.voltsToCode 0x7FF0000000000000#64 1) w0) = some (.failed (.config .volts) none) := by decide +kernel

/-- A bad gain is recorded before a bad voltage (R101's pseudocode; log entry 29). -/
theorem test_voltsToCode_gain :
    [0#64, 0x7FF0000000000000#64].map (fun v => result (exec (.voltsToCode v 6) w0))
      = List.replicate 2 (some (.failed (.config .gain) none)) := by decide

/-! ### One step each: conversion engine -/

theorem test_init_vdd :
    handle (exec (.init 1) w0) = some { addr := 0x49#7, cache := none, gain := none, engine := .idle, live := true } := by
  decide
theorem test_init_rejects : result (exec (.init 4) w0) = some (.failed (.config .address) none) := by decide
theorem test_deinit :
    (handle (exec .deinit w0)).map (fun h => h.live) = some false ∧
    refusal (exec .deinit State.reset) = some .deadHandle := by decide
/-- P2 step 2. -/
theorem test_startSingleShot :
    sent (exec (.startSingleShot 4 2) w0) = [[0x90#8, 0x01#8, 0xC5#8, 0x83#8]] ∧
    handle (exec (.startSingleShot 4 2) w0)
      = some { w0.handle with cache := some 0xC583#16, gain := some .fs2048, engine := .converting } := by decide
/-- V-CNV-12. -/
theorem test_startSingleShot_nak :
    let r := exec (.startSingleShot 4 0) (withFrames w0 [.nak false])
    sent r = [[0x90#8, 0x01#8, 0xC1#8, 0x83#8]] ∧ result r = some (.failed (.transport .nak .wr .config) none) ∧
    handle r = some w0.handle := by decide
/-- V-CNV-10: three polls and a timeout. -/
theorem test_pollLoop_times_out :
    let s := withFrames (world { fresh0 with cfg := 0x4583#15, mode := .singleConverting } (some 0xC583#16) .converting)
      (List.replicate 6 .ack)
    let r := (pollLoop .sps128 3 0x48#7 3).run false s
    result r = some (.failed (.conversionTimeout .sps128 3) none) ∧
    frameBytes r = [[0x90#8, 0x01#8], [0x91#8, 0x45#8, 0x83#8], [0x90#8, 0x01#8], [0x91#8, 0x45#8, 0x83#8],
      [0x90#8, 0x01#8], [0x91#8, 0x45#8, 0x83#8]] ∧
    (handle r).map (fun h => h.engine) = some .idle := by decide
/-- V-CNV-11: one poll, whose read brings C5 first. -/
theorem test_pollLoop_ready :
    let r := (pollLoop .sps8 26 0x48#7 26).run false (world { fresh0 with cfg := 0x4583#15 } (some 0xC583#16) .converting)
    result r = some (.done .ready) ∧ (handle r).map (fun h => h.engine) = some .ready ∧
    frameBytes r = [[0x90#8, 0x01#8], [0x91#8, 0xC5#8, 0x83#8]] := by decide
/-- P4 step 8. -/
theorem test_readConversion :
    result (exec (.readConversion 1) (world { windowed with conversion := 0xF830#16 } none .idle))
      = some (.done (.sample 0xF830#16 0xBFD0000000000000#64)) := by decide +kernel
/-- V-CNV-9. -/
theorem test_readConversion_busy : refusal (exec (.readConversion 2) (world fresh0 none .converting)) = some .engineBusy := by
  decide
/-- P4 step 2. -/
theorem test_startContinuous :
    sent (exec (.startContinuous 4 1 7) w0) = [[0x90#8, 0x01#8, 0x42#8, 0xE3#8]] ∧
    (device (exec (.startContinuous 4 1 7) w0)).map (fun d => d.mode) = some .continuous := by decide
/-- §2.2 V-ENC-10: AIN1_GND, FS_4_096, SPS_860 over 0x42E3 gives 0x52E3. -/
theorem test_startContinuous_merge :
    (handle (exec (.startContinuous 5 1 7) (world fresh0 (some 0x42E3#16) .idle))).map (fun h => h.cache)
      = some (some 0x52E3#16) := by decide
theorem test_delay : result (exec (.delay 8) w0) = some (.done .unit) ∧ sent (exec (.delay 8) w0) = [] := by decide

/-! ### One step each: comparator and line -/

/-- P3 step 3's first two frames; the order is not checked (R128). -/
theorem test_setThresholds :
    sent (exec (.setThresholds 0xE0C0#16 0x1F40#16) w0)
      = [[0x90#8, 0x02#8, 0xE0#8, 0xC0#8], [0x90#8, 0x03#8, 0x1F#8, 0x40#8]] := by decide
/-- V-ENC-10: 0x4283 gives 0x4294. -/
theorem test_enableComparator :
    sent (exec (.enableComparator 4 1 1 0 1 1) (world fresh0 (some 0x4283#16) .idle))
      = [[0x90#8, 0x01#8, 0x42#8, 0x94#8]] := by decide
/-- V-ENC-10: the empty cache gives 0x6581; queueDepth 0 is no depth to enable with. -/
theorem test_enableComparator_empty :
    (handle (exec (.enableComparator 6 2 0 0 0 2) w0)).map (fun h => h.cache) = some (some 0x6581#16) ∧
    result (exec (.enableComparator 6 2 0 0 0 0) w0) = some (.failed (.config .queueDepth) none) := by decide
/-- P3 step 3. -/
theorem test_armComparator :
    sent (exec (.armComparator 4 1 1 0 1 1 0xBFF0000000000000#64 0x3FF0000000000000#64)
      (world { fresh0 with mode := .continuous, cfg := 0x4283#15 } (some 0x4283#16) .idle))
      = [[0x90#8, 0x02#8, 0xE0#8, 0xC0#8], [0x90#8, 0x03#8, 0x1F#8, 0x40#8], [0x90#8, 0x01#8, 0x42#8, 0x94#8]] := by
  decide +kernel
/-- P6. -/
theorem test_armComparator_inverted :
    let r := exec (.armComparator 4 1 0 0 0 1 0x3FF0000000000000#64 0x3FE0000000000000#64) w0
    result r = some (.failed (.config .thresholdOrder) none) ∧ sent r = [] := by decide +kernel
/-- V-ENC-10: 0x4294 gives 0x4297. -/
theorem test_disableComparator :
    sent (exec .disableComparator (world windowed (some 0x4294#16) .ready)) = [[0x90#8, 0x01#8, 0x42#8, 0x97#8]] := by
  decide
theorem test_armAlertLine :
    line (exec .armAlertLine w0) = some { armed := true, edge := false, flag := false } := by decide
/-- P5 step 3, and its variant with the unwind's write answered Nak. -/
theorem test_armAlertLine_unwinds :
    let s := { world fresh0 (some 0x6581#16) .idle with env := { w0.env with arms := [false] } }
    sent (exec .armAlertLine s) = [[0x90#8, 0x01#8, 0x65#8, 0x83#8]] ∧
    result (exec .armAlertLine s) = some (.failed .lineArm none) ∧
    result (exec .armAlertLine (withFrames s [.nak false]))
      = some (.failed .lineArm (some (.transport .nak .wr .config))) := by decide
/-- With a conversion being waited for the unwind has no effect, and LineArmError is reported (R143, log entry 11). -/
theorem test_armAlertLine_busy :
    let s := { world fresh0 (some 0x6581#16) .converting with env := { w0.env with arms := [false] } }
    sent (exec .armAlertLine s) = [] ∧ result (exec .armAlertLine s) = some (.failed .lineArm none) := by decide
theorem test_disarmAlertLine :
    line (exec .disarmAlertLine { w0 with line := { armed := true, edge := true, flag := true } })
      = some { armed := false, edge := false, flag := true } := by decide
theorem test_clearAlertFlag :
    line (exec .clearAlertFlag { w0 with line := { armed := true, edge := true, flag := true } })
      = some { armed := true, edge := true, flag := false } := by decide
/-- P3 step 6, on the loop with the bound 33 of `alertPolls`. -/
theorem test_alertLoop_returns_sample :
    let s := { world { windowed with conversion := 0x3E80#16, alert := true } (some 0x4294#16) .idle with
      line := { armed := true, edge := false, flag := true } }
    let r := (alertLoop .fs4096 4 33 0x48#7 33).run false s
    result r = some (.done (.sample 0x3E80#16 0x4000000000000000#64)) ∧ (line r).map (fun l => l.flag) = some false ∧
    (device r).map (fun d => d.alert) = some false := by decide +kernel
/-- P3 step 8. -/
theorem test_alertLoop_times_out :
    let r := (alertLoop .fs4096 0 1 0x48#7 1).run false w0
    result r = some (.failed (.alertTimeout 0 1) none) ∧ sent r = [] := by decide

/-- §2.4 and §2.5: bounds for given parameters. -/
theorem test_bounds :
    maxPollsFor 10 1 .sps128 = 19 ∧ maxPollsFor 0 5 .sps16 = 14 ∧ alertPollsFor 1 4 .sps128 = 33 ∧
    alertPollsFor 5 4 .sps128 = 8 := by decide

/-! ### The comparator: single conversions from §2.5 -/

/-- A device with thresholds −100 and 100. -/
def compared (cfg : BitVec 15) (cnt : Nat) (alert : Bool) : Device :=
  { fresh0 with cfg, low := 0xFF9C#16, high := 0x0064#16, mode := .continuous, cnt, alert }

/-- V-CMP-1: the second trip at depth 2 asserts; 50 keeps the alert; 100 does not trip; −150 clears. -/
theorem test_compare_traditional :
    [(1, false, 150#16), (2, true, 50#16), (1, false, 100#16), (0, true, 0xFF6A#16)].map (fun x =>
      let d := (compared 0x0001#15 x.1 x.2.1).complete x.2.2 false 0
      (d.cnt, d.alert)) = [(2, true), (0, true), (0, false), (0, false)] := by decide
/-- V-CMP-4: the window's ends are inside; a latched alert holds at 0 and asserts again from cnt 1. -/
theorem test_compare_window_latching :
    [(0, false, 100#16), (0, false, 0xFF9C#16), (0, false, 101#16), (1, true, 0#16), (1, false, 0xFF9B#16)].map (fun x =>
      let d := (compared 0x0014#15 x.1 x.2.1).complete x.2.2 false 0
      (d.cnt, d.alert)) = [(0, false), (0, false), (1, true), (0, true), (1, true)] := by decide
/-- R167, V-CMP-6: with `lo = 200`, `hi = 100` in Traditional mode 150 trips and 50 clears; at depth 2 the trip clears
nothing while the count is short of the depth (log entry 28). -/
theorem test_compare_above_and_below :
    let d := { fresh0 with low := 200#16, high := 100#16, mode := ConvMode.continuous }
    [(0x0000#15, false, 150#16), (0x0000#15, true, 50#16), (0x0001#15, true, 150#16), (0x0001#15, false, 150#16)].map
      (fun x => let e := { d with cfg := x.1, alert := x.2.1 }.compareSample x.2.2 false 0
        (e.cnt, e.alert)) = [(1, true), (0, false), (1, true), (1, false)] := by decide
/-- V-CMP-8: disabled. -/
theorem test_compare_disabled :
    let d := (compared 0x0003#15 2 true).complete 500#16 true 1
    (d.cnt, d.alert, d.pin) = (0, false, .highZ) := by decide
/-- V-CNV-7. -/
theorem test_complete_single :
    let d := { fresh0 with mode := ConvMode.singleConverting }.complete 0xFFFB#16 false 0
    (d.mode, d.conversion, d.fresh) = (.powerDown, 0xFFFB#16, true) := by decide
/-- V-CMP-11: an edge is captured while armed and delivered into the flag. -/
theorem test_line_captures :
    let s := { world windowed none .idle with line := { armed := true, edge := false, flag := false } }
    (s.agentStep (.convert .gnd 0x3E80#16 false 0)).line = { armed := true, edge := true, flag := false } ∧
    (s.agentSteps [.convert .gnd 0x3E80#16 false 0, .deliver]).line = { armed := true, edge := false, flag := true } ∧
    ((world windowed none .idle).agentStep (.convert .gnd 0x3E80#16 false 0)).line.edge = false := by decide

/-! ### Another session, frame by frame (R46, R151) -/

/-- Draws of an acknowledged frame. -/
def acked : Draws := { bus := .ack, os := false, arms := false }

/-- A second session on the device at GND, with `readRegister 2` to issue. -/
def reader : Session where
  handle  := { Handle.create 0x48#7 with live := true }
  line    := Line.reset
  host    := { HostAgent.reset with pending := [[0x10#8, 0x02#8]] }
  busy    := none
  refused := none

/-- The serving world with the reader beside it. -/
def two : State := { world windowed none .idle with others := [reader] }

/-- What the reader's command returned, and its index. -/
def reading (s : State) : Option (Option Report × Nat) := s.others[0]?.map fun p => (p.host.report, p.host.index)

/-- Three controller steps: PTR, RD, and the return of 0xE0C0. -/
theorem test_other_session_reads :
    let s := two.agentSteps (List.replicate 3 (.controller 0 acked))
    reading s = some (some { opcode := some 0x10#8, answer := .done (.word 0xE0C0#16) }, 1) ∧
    (s.wire.map Transfer.bytes).reverse = [[0x90#8, 0x02#8], [0x91#8, 0xE0#8, 0xC0#8]] := by decide
/-- The running session's `readRegister 3` with the reader's PTR between its own PTR and RD: each frame is whole, and the
running session reads LowThreshold (R165). -/
theorem test_frames_interleave :
    let s := { two with env := { two.env with gaps := [[.controller 0 acked]] } }
    result (exec (.readRegister 3) s) = some (.done (.word 0xE0C0#16)) ∧
    frameBytes (exec (.readRegister 3) s) = [[0x90#8, 0x03#8], [0x90#8, 0x02#8], [0x91#8, 0xE0#8, 0xC0#8]] := by decide
/-- A refused command of the other session refuses the step (D39). -/
theorem test_other_session_refused :
    refusal (step { two with
      others := [{ reader with handle := Handle.absent }], env := { two.env with gaps := [[.controller 0 acked]] } })
      = some .deadHandle := by decide

/-! ### Witnesses: a state and operands that meet each statement's hypotheses -/

/-- The serving world meets what most statements ask: a live handle at its device, five acknowledged frames and five
quiet gaps, whatever the engine and the cache. -/
theorem world_serves (d : Device) (c : Option Word) (e : Engine) :
    (world d c e).Serves .gnd d ∧ (world d c e).env.acks 5 ∧ (world d c e).env.quiet 5 :=
  ⟨⟨rfl, rfl, rfl⟩, ⟨[], rfl⟩, ⟨[], rfl⟩⟩

/-- Fewer answers than the queue holds. -/
theorem world_acks (d : Device) (c : Option Word) (e : Engine) :
    (world d c e).env.acks 1 ∧ (world d c e).env.acks 2 ∧ (world d c e).env.acks 3 ∧
    (world d c e).env.quiet 1 ∧ (world d c e).env.quiet 2 ∧ (world d c e).env.quiet 3 :=
  ⟨⟨List.replicate 4 .ack, rfl⟩, ⟨List.replicate 3 .ack, rfl⟩, ⟨List.replicate 2 .ack, rfl⟩,
    ⟨List.replicate 4 [], rfl⟩, ⟨List.replicate 3 [], rfl⟩, ⟨List.replicate 2 [], rfl⟩⟩

theorem witness_DecodeOfEncodeIsTheInstruction :
    (Instr.buildConfig 255 0 255 0 255 0 255 0 true).wf = true ∧ (Instr.waitForAlert 128 255).wf = true := by decide

theorem witness_EncodeOfDecodeIsTheBytes :
    decode [0x47#8, 0x80#8, 0x01#8, 0xFF#8] = .ok (.waitForAlert 128 255) ∧
    decode [0x97#8, 0xFF#8, 0xFF#8] = .ok (.rd .scl) ∧ addressByte Strap.scl.addr true = 0x97#8 := by decide

/-- The clauses: a command that returns; a command that is refused; bytes that are no instruction; nothing to issue; and,
for the first, another session that has and one that has not met a refusal. -/
theorem witness_StepRunsTheIssuedCommand :
    let s := fun (b : List (List Byte)) (others : List Session) => { w0 with host := { w0.host with pending := b }, others }
    ((s [[0x34#8, 0x00#8]] [reader]).gap.host.pending = [[0x34#8, 0x00#8]] ∧
      decode [0x34#8, 0x00#8] = .ok (.delay 0) ∧
      ∃ t, exec (.delay 0) (s [[0x34#8, 0x00#8]] [reader]).gap = .next t ∧ t.host.holding = false ∧
        ∀ p ∈ t.others, p.refused = none) ∧
    (∃ t, exec (.delay 0) (s [[0x34#8, 0x00#8]] [{ reader with refused := some .deadHandle }]).gap = .next t ∧
        ∃ p ∈ t.others, p.refused ≠ none) ∧
    (decode [0x31#8, 0x00#8] = .ok (.pollUntilReady 0) ∧
      exec (.pollUntilReady 0) (s [[0x31#8, 0x00#8]] []).gap = .refused .noConversion) ∧
    decode [0x35#8] = .error .unknownOpcode ∧ (s [] [reader]).gap.host.pending = [] ∧
    (∀ p ∈ (s [] [reader]).gap.others, p.refused = none) := by
  refine ⟨⟨rfl, by decide, _, rfl, rfl, by decide⟩, ⟨_, rfl, by decide⟩, ⟨by decide, rfl⟩, by decide, rfl, by decide⟩

theorem witness_ProgramEndsAtFirstFailure :
    let h := fun (a : Answer) (rest : List (List Byte)) => ({ HostAgent.reset with
      pending := [0x02#8] :: rest, report := some { opcode := some 0x30#8, answer := a } } : HostAgent)
    (h (.failed (.config .gain) none) []).holding = false ∧ (Answer.failed (.config .gain) none).status ≠ 0 ∧
    (h (.done .unit) []).status = none ∧ (Answer.done .unit).status = 0 ∧
    (h (.done .unit) [[0x43#8]]).pending = [[0x02#8], [0x43#8]] := by decide

/-- The clauses: a command with no other agent stepping; another session's controller step; and its `readRegister 2`, with
nothing between its steps and with a frame between them that moves the pointer. -/
theorem witness_CommandsLeaveTheProgramAlone :
    (∃ t, exec .clearAlertFlag two = .next t ∧ (∀ g ∈ two.env.gaps, g = []) ∧ t.env.drawn = two.env.drawn) ∧
    two.others[0]? = some reader ∧ reader.busy = none ∧ reader.refused = none ∧ reader.host.status = none ∧
    reader.host.holding = false ∧ reader.host.pending = [0x10#8, 0x02#8] :: [] ∧ reader.handle.live = true ∧
    reader.handle.addr = Strap.gnd.addr ∧ two.devices.get .gnd = some windowed ∧ acked.bus = .ack ∧
    (let u := (two.agentStep (.controller 0 acked)).agentStep (.foreign (.ptr 0x48#7 .high))
     u.others[0]? = (two.agentStep (.controller 0 acked)).others[0]? ∧
     u.devices.get .gnd = some { windowed with ptr := .high }) ∧
    (two.agentStep (.controller 0 acked)).devices.get .gnd = some { windowed with ptr := .low } := by
  refine ⟨⟨_, rfl, by decide, rfl⟩, rfl, rfl, rfl, rfl, rfl, rfl, rfl, rfl, rfl, rfl, ⟨rfl, rfl⟩, rfl⟩

theorem witness_ResetLeavesTheStatedValues : State.reset.devices.get .scl = some Device.reset := rfl

/-- The device of program P3 meets the device invariant. -/
theorem windowed_inv : windowed.Inv := ⟨by decide, show windowed.cnt ≤ 1 by decide⟩

theorem witness_StepKeepsTheInvariant :
    (world windowed (some 0x4294#16) .ready).Inv ∧ ∃ t, step (world windowed (some 0x4294#16) .ready) = .next t := by
  have h0 : Device.reset.Inv := ⟨by decide, rfl, rfl⟩
  refine ⟨⟨?_, ⟨by decide, by decide, by decide⟩, by simp [world, State.reset]⟩, _, rfl⟩
  intro a d h
  cases a <;> simp [world, State.reset, Devices.get] at h <;> subst h
  · exact windowed_inv
  · exact h0
  · exact h0
  · exact h0

theorem witness_PinLevelFollowsState :
    Device.reset.cfg.extractLsb' 0 2 = 0b11#2 ∧
    (windowed.cfg.extractLsb' 0 2 ≠ 0b11#2 ∧ { windowed with alert := true }.alert = true ∧
      windowed.alert = false ∧ windowed.cfg.getLsbD 3 = false ∧
      { windowed with cfg := 0x429C#15 }.cfg.getLsbD 3 = true) := by decide

theorem witness_RawPointerAndThresholdFramesTakeEffect :
    w0.devices.get .gnd = some fresh0 ∧ w0.env.acks 1 := ⟨rfl, (world_acks ..).1⟩

/-- The five rows of R105's table. -/
theorem witness_RawConfigWriteActsOnTheConverter :
    w0.devices.get .gnd = some fresh0 ∧ w0.env.acks 1 ∧ (0x4283#16).getLsbD 8 = false ∧ (0x4583#16).getLsbD 8 = true ∧
    (0x4583#16).getLsbD 15 = false ∧ (0xC583#16).getLsbD 15 = true ∧ fresh0.mode = .powerDown ∧
    windowed.mode = .continuous ∧ (world windowed none .idle).devices.get .gnd = some windowed :=
  ⟨rfl, (world_acks ..).1, by decide, by decide, by decide, by decide, rfl, rfl, rfl⟩

/-- The clauses: a read of another register; a Config read in PowerDown; one in Continuous mode, with and without an
answer of CONT_OS_READ to come. -/
theorem witness_RawReadReturnsTheRegisterAtThePointer :
    w0.devices.get .gnd = some fresh0 ∧ w0.env.acks 1 ∧ fresh0.ptr = .conversion ∧
    (let d := { windowed with ptr := .config }
     (world d none .idle).env.osReads = true :: [] ∧ (world d none .idle).devices.get .gnd = some d ∧
     d.mode = .continuous ∧
     { world d none .idle with env := { (world d none .idle).env with osReads := [] } }.env.osReads = []) ∧
    ({ fresh0 with ptr := .config } : Device).mode = .powerDown :=
  ⟨rfl, (world_acks ..).1, rfl, ⟨rfl, rfl, rfl, rfl⟩, rfl⟩

theorem witness_ConversionCannotBeWritten : w0.handle.live = true := rfl

theorem witness_FailedFrameTakesAllOrNothing :
    (withFrames w0 [.timeout true]).devices.get .gnd = some fresh0 ∧
    (withFrames w0 [.timeout true]).env.frames = [.timeout true] ∧ FailsAs (.timeout true) .timeout true ∧
    (withFrames w0 [.nak false]).env.frames = [.nak false] ∧ FailsAs (.nak false) .nak false :=
  ⟨rfl, rfl, .inr ⟨rfl, rfl⟩, rfl, .inl ⟨rfl, rfl⟩⟩

/-- A frame to a populated position, and one to an empty one. -/
theorem witness_RawFramesReachOneDevice :
    (∃ t, exec (.rd .gnd) w0 = .next t) ∧
    (∃ t, exec (.rd .gnd) { w0 with devices := { w0.devices with gnd := none } } = .next t) ∧
    { w0 with devices := { w0.devices with gnd := none } }.devices.get .gnd = none := ⟨⟨_, rfl⟩, ⟨_, rfl⟩, rfl⟩

theorem witness_ReadRegisterReturnsTheRegister :
    w0.Serves .gnd fresh0 ∧ w0.env.acks 2 ∧ w0.env.quiet 1 ∧ fresh0.mode = .powerDown ∧
    (world windowed none .idle).Serves .gnd windowed ∧ windowed.mode = .continuous ∧
    (world windowed none .idle).env.osReads = [true] :=
  ⟨(world_serves ..).1, (world_acks ..).2.1, (world_acks ..).2.2.2.1, rfl, (world_serves ..).1, rfl, rfl⟩

theorem witness_WriteRegisterStoresTheValue : w0.Serves .gnd fresh0 ∧ w0.env.acks 1 :=
  ⟨(world_serves ..).1, (world_acks ..).1⟩

/-- V-ENC-8: 0x7BFE is written and 0xFBFE read back. -/
theorem witness_ConfigReadsBackAsWritten :
    ∃ t u sent, exec (.writeRegister 1 0x7BFE#16) w0 = .next t ∧
      t.host.report = some { opcode := some 0x11#8, answer := .done .unit } ∧
      exec (.readRegister 1) t.gap = .next u ∧
      u.host.report = some { opcode := some 0x10#8, answer := .done (.word 0xFBFE#16) } ∧
      SentBetween w0 u sent ∧ (∀ x ∈ sent, x.sender = .controller) :=
  ⟨_, _, [sentAck (.rd 0x48#7) [0xFB#8, 0xFE#8], sentAck (.ptr 0x48#7 .config) [],
    sentAck (.wr 0x48#7 .config 0x7BFE#16) []], rfl, rfl, rfl, rfl, rfl, by decide⟩

theorem witness_BuildConfigPacksTheFields : (7 < 8 ∧ 5 < 6 ∧ 1 < 2 ∧ 7 < 8 ∧ 1 < 2 ∧ 1 < 2 ∧ 1 < 2) ∧
    ((4 : Nat) = 0 ∨ (4 : Nat) = 1 ∨ (4 : Nat) = 2 ∨ (4 : Nat) = 4) := by decide

theorem witness_ConfigWordRoundTrips :
    ((0x0A00#16).extractLsb' 9 3).toNat ≤ 0b101 ∧ 0b110 ≤ ((0x0C00#16).extractLsb' 9 3).toNat := by decide

/-- E8: channel 3, then channel 5, with another caller's Config write between them. -/
theorem witness_ChannelOfTheLastWriteOnly :
    ∃ t u, exec (.writeRegister 1 0xB583#16) w0 = .next t ∧
      t.host.report = some { opcode := some 0x11#8, answer := .done .unit } ∧
      exec (.writeRegister 1 0xD583#16) (t.agentSteps [.foreign (.wr 0x48#7 .config 0x8583#16)]) = .next u ∧
      u.host.report = some { opcode := some 0x11#8, answer := .done .unit } := ⟨_, _, rfl, rfl, rfl, rfl⟩

/-- The clauses: an index at each end, the ends of the code range, and a code between them. -/
theorem witness_ScaleToVoltageFollowsTheLaw :
    (0, Gain.fs6144, 0x40189374BC6A7EFA#64) ∈ [(0, Gain.fs6144, 0x40189374BC6A7EFA#64)] ∧
    0x7FFF#16 ≠ 0#16 ∧ 0x7FFF#16 ≠ 0x8000#16 ∧ (6 : Nat) ≤ 6 := by decide

theorem witness_ScalingIsStrictlyIncreasing : (0x8000#16).toInt < (0x7FFF#16).toInt := by decide

theorem witness_VoltsToCodeUndoesScaling : checkGain 5 = .ok .fs0256 := by decide

/-- The clauses: 4.096 V at FS_4_096 and its quotient, index 6, NaN, and both. -/
theorem witness_VoltsToCodeCompletesOnFiniteVolts :
    checkGain 1 = .ok .fs4096 ∧ Fp.isFinite (fullScale .fs4096) = true ∧
    Fp.isFinite (Fp.div (Fp.mul (fullScale .fs4096) 0x40E0000000000000#64) (fullScale .fs4096)) = true ∧
    Fp.isFinite 0x7FF8000000000000#64 = false := by decide +kernel

theorem witness_RateTableAndBounds :
    0 < 1 ∧ maxPollsFor 0 1 .sps860 = 3 ∧ checkDataRate 7 = .ok .sps860 ∧ checkDataRate 8 = .error .dataRate := by decide

theorem witness_InitAndDeinitMakeAndKillTheHandle :
    3 < 4 ∧ 4 ≤ 4 ∧ w0.handle.live = true ∧ State.reset.handle.live = false := by decide

theorem witness_LivenessAndEngineGateCommands :
    State.reset.handle.live = false ∧ (world fresh0 none .converting).handle.engine = .converting ∧
    w0.handle.engine ≠ .converting := by decide

theorem witness_StartSingleShotTriggersOneConversion :
    w0.Serves .gnd fresh0 ∧ (w0.handle.engine = .idle ∨ w0.handle.engine = .ready) ∧ w0.env.acks 1 ∧
    checkChannel 7 = .ok .ain3Gnd ∧ checkGain 5 = .ok .fs0256 :=
  ⟨(world_serves ..).1, .inl rfl, (world_acks ..).1, by decide, by decide⟩

theorem witness_StartContinuousFreeRuns :
    (world windowed (some 0x4294#16) .ready).Serves .gnd windowed ∧
    (world windowed (some 0x4294#16) .ready).handle.engine = .ready ∧
    (world windowed (some 0x4294#16) .ready).env.acks 1 ∧
    checkChannel 0 = .ok .ain0Ain1 ∧ checkGain 0 = .ok .fs6144 ∧ checkDataRate 7 = .ok .sps860 :=
  ⟨(world_serves ..).1, rfl, (world_acks ..).1, by decide, by decide, by decide⟩

theorem witness_PollSeesAFinishedConversion :
    (world fresh0 (some 0xC583#16) .converting).Serves .gnd fresh0 ∧ fresh0.mode = .powerDown ∧ 7 < 8 ∧
    (world fresh0 (some 0xC583#16) .converting).env.acks 2 ∧ (world fresh0 (some 0xC583#16) .converting).env.quiet 1 :=
  ⟨(world_serves ..).1, rfl, by decide, (world_acks ..).2.1, (world_acks ..).2.2.2.1⟩

/-- A device that is converting, and a queue long enough for every poll. -/
def silent : State :=
  { world { fresh0 with mode := .singleConverting } (some 0xC583#16) .converting with
    env := { Env.reset with
      frames := List.replicate (2 * maxPolls .sps128) .ack, gaps := List.replicate (2 * maxPolls .sps128) [] } }

theorem witness_PollTimesOutOnASilentDevice :
    silent.Serves .gnd { fresh0 with mode := .singleConverting } ∧ silent.handle.engine = .converting ∧
    checkDataRate 4 = .ok .sps128 ∧ silent.env.acks (2 * maxPolls .sps128) ∧ silent.env.quiet (2 * maxPolls .sps128) :=
  ⟨⟨rfl, rfl, rfl⟩, rfl, by decide, ⟨[], (List.append_nil _).symm⟩, ⟨[], (List.append_nil _).symm⟩⟩

theorem witness_WaitingCommandsAreBounded :
    silent.handle.live = true ∧ silent.handle.engine = .converting ∧ checkDataRate 7 = .ok .sps860 ∧
    w0.handle.live = true ∧ w0.handle.engine = .idle := by decide

theorem witness_ReadConversionReturnsTheSample :
    (world windowed none .ready).Serves .gnd windowed ∧ (world windowed none .ready).handle.engine = .ready ∧
    checkGain 5 = .ok .fs0256 ∧ (world windowed none .ready).env.acks 2 ∧ (world windowed none .ready).env.quiet 1 :=
  ⟨(world_serves ..).1, rfl, by decide, (world_acks ..).2.1, (world_acks ..).2.2.2.1⟩

/-- The clauses: a plain delay; the settling delay of the cached rate, 8 ms, itself and one less; a delay that already
holds; a device in PowerDown; a fresh sample. -/
theorem witness_DelayReturnsOrHolds :
    w0.handle.live = true ∧ w0.host.holding = false ∧
    (let s := world windowed (some 0x4294#16) .idle
     s.Serves .gnd windowed ∧ s.host.holding = false ∧ windowed.mode ≠ .powerDown ∧ windowed.fresh = false ∧
     settleMs (fieldsOf (s.handle.cache.getD 0x8583#16)).dataRate = 8 ∧ 8 ≤ 8 ∧ 7 < 8 ∧
     { s with host := { s.host with holding := true } }.Serves .gnd windowed) ∧
    w0.Serves .gnd fresh0 ∧ fresh0.mode = .powerDown ∧
    (world { windowed with fresh := true } none .idle).Serves .gnd { windowed with fresh := true } :=
  ⟨rfl, rfl, ⟨(world_serves ..).1, rfl, by decide, rfl, by decide, by decide, by decide, ⟨rfl, rfl, rfl⟩⟩,
    (world_serves ..).1, rfl, (world_serves ..).1⟩

/-- A world whose device converts in the gap between the first two polls (P2). -/
def pollsTwice : State :=
  { w0 with env := { w0.env with frames := List.replicate 7 .ack, gaps := [[], [.convert .gnd 0x1388#16 false 0], [], []] } }

/-- Both places of the conversion: before the first poll, and in gap 1, after one poll that reads OS = 0. -/
theorem witness_SingleShotReadCycle :
    w0.Serves .gnd fresh0 ∧ w0.handle.engine = .idle ∧ fresh0.mode = .powerDown ∧ checkChannel 4 = .ok .ain0Gnd ∧
    checkGain 2 = .ok .fs2048 ∧ checkDataRate 4 = .ok .sps128 ∧ 0 < maxPolls .sps128 ∧ w0.env.acks (2 * 0 + 5) ∧
    w0.env.quiet 2 ∧ pollsTwice.Serves .gnd fresh0 ∧ pollsTwice.handle.engine = .idle ∧ 1 < maxPolls .sps128 ∧
    pollsTwice.env.acks (2 * 1 + 5) ∧ 1 = (1 + 1) / 2 ∧
    ∃ rest, pollsTwice.env.gaps = List.replicate 1 [] ++ [.convert .gnd 0x1388#16 false 0] :: [] :: [] :: rest :=
  ⟨(world_serves ..).1, rfl, rfl, by decide, by decide, by decide, Nat.lt_of_succ_lt (one_lt_maxPolls _),
    (world_serves ..).2.1, (world_acks ..).2.2.2.2.1, (world_serves ..).1, rfl, one_lt_maxPolls _, ⟨[], rfl⟩, rfl, [], rfl⟩

/-- The clauses: power-down; disabled; each depth; the conversion-ready combination and its absence; a sample above,
below, between the thresholds and both above and below; window, latching and neither. -/
theorem witness_ConversionUpdatesTheComparator :
    w0.devices.get .gnd = some fresh0 ∧ fresh0.mode = .powerDown ∧
    (compared 0x0003#15 0 false).mode ≠ .powerDown ∧ (compared 0x0003#15 0 false).cfg.extractLsb' 0 2 = 0b11#2 ∧
    (compared 0x0000#15 0 false).cfg.extractLsb' 0 2 = 0b00#2 ∧ (compared 0x0001#15 0 false).cfg.extractLsb' 0 2 = 0b01#2 ∧
    (compared 0x0016#15 3 false).cfg.extractLsb' 0 2 = 0b10#2 ∧
    ¬ ((compared 0x0016#15 3 false).high.msb = true ∧ (compared 0x0016#15 3 false).low.msb = false) ∧
    (({ fresh0 with low := 0x0064#16, high := 0xFF9C#16 } : Device).high.msb = true ∧
      ({ fresh0 with low := 0x0064#16, high := 0xFF9C#16 } : Device).low.msb = false) ∧
    (compared 0 0 false).high.toInt < (101#16).toInt ∧ (0xFF9B#16).toInt < (compared 0 0 false).low.toInt ∧
    ¬ (compared 0 0 false).high.toInt < (100#16).toInt ∧ ¬ (0xFF9C#16).toInt < (compared 0 0 false).low.toInt ∧
    (compared 0x0014#15 0 false).cfg.getLsbD 4 = true ∧ (compared 0x0014#15 0 false).cfg.getLsbD 2 = true ∧
    (compared 0x0001#15 0 false).cfg.getLsbD 4 = false ∧ (compared 0x0001#15 0 false).cfg.getLsbD 2 = false ∧
    (({ fresh0 with low := 200#16, high := 100#16 } : Device).high.toInt < (150#16).toInt ∧
      (150#16).toInt < ({ fresh0 with low := 200#16, high := 100#16 } : Device).low.toInt) := by decide

theorem witness_LatchedAlertPersists :
    (world { windowed with alert := true } none .idle).devices.get .gnd = some { windowed with alert := true } ∧
    windowed.cfg.extractLsb' 0 2 ≠ 0b11#2 ∧ windowed.cfg.getLsbD 2 = true ∧
    ¬ (windowed.high.msb = true ∧ windowed.low.msb = false) ∧
    (∀ f, AgentStep.foreign f ∉ [AgentStep.convert .gnd 0#16 false 0, .deliver, .deliverOther 0]) ∧
    (∀ k w, AgentStep.controller k w ∉ [AgentStep.convert .gnd 0#16 false 0, .deliver, .deliverOther 0]) :=
  ⟨rfl, by decide, by decide, by decide, by simp, by simp⟩

/-- The clauses: an asserting edge that reaches an armed line and a disarmed one, a session at the device's address and
one at another; a conversion with no edge; and a captured edge of the running session and of another. -/
theorem witness_AlertEdgeIsCapturedAndDelivered :
    let armed : Line := { armed := true, edge := false, flag := false }
    let edged : Line := { armed := true, edge := true, flag := false }
    let other := { reader with handle := Handle.create 0x49#7, line := edged }
    let s := { two with line := armed, others := [{ reader with line := armed }, other] }
    s.devices.get .gnd = some windowed ∧ windowed.mode ≠ .powerDown ∧ windowed.asserted = false ∧
    s.handle.addr = Strap.gnd.addr ∧ s.line.armed = true ∧
    ((s.agentStep (.convert .gnd 0x3E80#16 false 0)).devices.get .gnd).map Device.asserted = some true ∧
    ((s.agentStep (.convert .gnd 0x1F40#16 false 0)).devices.get .gnd).map Device.asserted = some false ∧
    s.others[0]? = some { reader with line := armed } ∧ reader.handle.addr = Strap.gnd.addr ∧
    s.others[1]? = some other ∧ other.handle.addr ≠ Strap.gnd.addr ∧ other.line.edge = true ∧ two.line.armed = false ∧
    { s with line := edged }.line.edge = true := by
  refine ⟨rfl, by decide, by decide, rfl, rfl, by decide, by decide, rfl, rfl, rfl, by decide, rfl, rfl, rfl⟩

/-- The clauses: both frames acknowledged; the first fails; the second fails, with and without effect. -/
theorem witness_SetThresholdsWritesBoth :
    w0.Serves .gnd fresh0 ∧ w0.env.quiet 1 ∧ w0.env.acks 2 ∧
    (withFrames w0 [.timeout false]).Serves .gnd fresh0 ∧ (withFrames w0 [.timeout false]).env.frames = [.timeout false] ∧
    FailsAs (.timeout false) .timeout false ∧
    (withFrames w0 [.ack, .nak true]).Serves .gnd fresh0 ∧ (withFrames w0 [.ack, .nak true]).env.quiet 1 ∧
    (withFrames w0 [.ack, .nak true]).env.frames = [.ack, .nak true] ∧ FailsAs (.nak true) .nak true ∧
    (withFrames w0 [.ack, .timeout false]).env.frames = [.ack, .timeout false] :=
  ⟨(world_serves ..).1, (world_acks ..).2.2.2.1, (world_acks ..).2.1, ⟨rfl, rfl, rfl⟩, rfl, .inr ⟨rfl, rfl⟩, ⟨rfl, rfl, rfl⟩,
    ⟨List.replicate 4 [], rfl⟩, rfl, .inl ⟨rfl, rfl⟩, rfl⟩

theorem witness_EnableComparatorWritesItsFields :
    w0.Serves .gnd fresh0 ∧ w0.handle.engine = .idle ∧ w0.env.acks 1 ∧
    checkCompareArgs 7 5 1 1 1 4 = .ok ⟨.ain3Gnd, .fs0256, .window, .activeHigh, .latching, .four⟩ :=
  ⟨(world_serves ..).1, rfl, (world_acks ..).1, by decide⟩

/-- Equal thresholds are accepted: the order is strict. -/
theorem witness_ArmComparatorWritesThresholdsThenConfig :
    w0.Serves .gnd fresh0 ∧ w0.handle.engine = .idle ∧ w0.env.acks 3 ∧ w0.env.quiet 2 ∧
    checkCompareArgs 0 0 0 0 0 1 = .ok ⟨.ain0Ain1, .fs6144, .traditional, .activeLow, .nonLatching, .one⟩ ∧
    Fp.isFinite 0x3FF0000000000000#64 = true ∧ Fp.gt 0x3FF0000000000000#64 0x3FF0000000000000#64 = false :=
  ⟨(world_serves ..).1, rfl, (world_acks ..).2.2.1, (world_acks ..).2.2.2.2.1, by decide, by decide, by decide⟩

/-- The clauses: 1.0 above 0.5; NaN as low; +∞ as high. -/
theorem witness_InvertedThresholdsAreRejected :
    w0.handle.live = true ∧ w0.handle.engine = .idle ∧
    checkCompareArgs 0 0 1 0 0 2 = .ok ⟨.ain0Ain1, .fs6144, .window, .activeLow, .nonLatching, .two⟩ ∧
    Fp.isFinite 0x3FF0000000000000#64 = true ∧ Fp.isFinite 0x3FE0000000000000#64 = true ∧
    Fp.gt 0x3FF0000000000000#64 0x3FE0000000000000#64 = true ∧
    Fp.isFinite 0x7FF8000000000000#64 = false ∧ Fp.isFinite 0x7FF0000000000000#64 = false := by decide

theorem witness_DisableComparatorReleasesThePin :
    (world windowed (some 0x4294#16) .ready).Serves .gnd windowed ∧
    (world windowed (some 0x4294#16) .ready).handle.engine = .ready ∧
    (world windowed (some 0x4294#16) .ready).env.acks 1 := ⟨(world_serves ..).1, rfl, (world_acks ..).1⟩

/-- The clauses: the collaborator arms; it fails with nothing cached; with a comparator cached and the engine Converting;
with a comparator cached and a free engine, the unwind's write acknowledged, and answered Timeout with effect. -/
theorem witness_ArmAlertLineArmsOrUnwinds :
    let failing := fun c e => { world windowed c e with env := { w0.env with arms := [false] } }
    let s := failing (some 0x4294#16) .ready
    w0.handle.live = true ∧ w0.env.arms = true :: [] ∧
    (failing none .ready).env.arms = false :: [] ∧ (failing none .ready).handle.cache = none ∧
    (failing (some 0x4294#16) .converting).handle.engine = .converting ∧
    s.Serves .gnd windowed ∧ s.handle.engine = .ready ∧ s.env.arms = false :: [] ∧ s.env.acks 1 ∧ s.env.quiet 1 ∧
    s.handle.cache = some 0x4294#16 ∧ (0x4294#16).extractLsb' 0 2 ≠ 0b11#2 ∧
    (withFrames s [.timeout true]).env.frames = [.timeout true] ∧ FailsAs (.timeout true) .timeout true :=
  ⟨rfl, rfl, rfl, rfl, rfl, ⟨rfl, rfl, rfl⟩, rfl, rfl, ⟨List.replicate 4 .ack, rfl⟩, ⟨List.replicate 4 [], rfl⟩, rfl,
    by decide, rfl, .inr ⟨rfl, rfl⟩⟩

theorem witness_DisarmAndClearTouchTheLineOnly : w0.handle.live = true ∧ State.reset.handle.live = false := by decide

theorem witness_WaitForAlertReturnsTheSample :
    let s := { world { windowed with alert := true } (some 0x4294#16) .idle with
      line := { armed := true, edge := false, flag := true } }
    s.Serves .gnd { windowed with alert := true } ∧ s.handle.engine = .idle ∧ checkGain 1 = .ok .fs4096 ∧
    s.line.flag = true ∧ s.env.acks 2 ∧ s.env.quiet 3 :=
  ⟨⟨rfl, rfl, rfl⟩, rfl, by decide, rfl, ⟨List.replicate 3 .ack, rfl⟩, ⟨List.replicate 2 [], rfl⟩⟩

theorem witness_WaitForAlertTimesOut :
    let s := { w0 with env := { w0.env with
      gaps := List.replicate (alertPolls 4 (fieldsOf (w0.handle.cache.getD 0x8583#16)).dataRate) [] } }
    s.handle.live = true ∧ s.handle.engine = .idle ∧ checkGain 0 = .ok .fs6144 ∧ s.line.flag = false ∧
    s.env.quiet (alertPolls 4 (fieldsOf (s.handle.cache.getD 0x8583#16)).dataRate) :=
  ⟨rfl, rfl, by decide, rfl, ⟨[], (List.append_nil _).symm⟩⟩

/-- E11, with the second sample at the window's end. -/
theorem witness_WindowAlertReachesTheHost :
    let s := { world windowed (some 0x4294#16) .idle with line := { armed := true, edge := false, flag := false } }
    s.Serves .gnd windowed ∧ windowed.mode = .continuous ∧ windowed.cfg.extractLsb' 0 2 = 0b00#2 ∧
    windowed.cfg.getLsbD 2 = true ∧ windowed.cfg.getLsbD 4 = true ∧ windowed.alert = false ∧
    windowed.low.toInt ≤ (8000#16).toInt ∧ (8000#16).toInt ≤ windowed.high.toInt ∧
    ¬ (windowed.high.msb = true ∧ windowed.low.msb = false) ∧ windowed.high.toInt < (8001#16).toInt ∧
    s.line.armed = true ∧ s.handle.engine = .idle ∧ checkGain 1 = .ok .fs4096 ∧ s.env.acks 2 ∧ s.env.quiet 3 :=
  ⟨⟨rfl, rfl, rfl⟩, rfl, by decide, by decide, by decide, rfl, by decide, by decide, by decide, by decide, rfl, rfl,
    by decide, ⟨List.replicate 3 .ack, rfl⟩, ⟨List.replicate 2 [], rfl⟩⟩

theorem witness_ConfigErrorSendsNoFrame :
    ∃ t, exec (.readConversion 6) w0 = .next t ∧ t.host.holding = false ∧
      t.host.report = some { opcode := some 0x32#8, answer := .failed (.config .gain) none } := ⟨_, rfl, rfl, rfl⟩

/-- A command that ends in this TransportError, from `s`. -/
def EndsInTransport (i : Instr) (s : State) (op : Byte) (how : BusFailure) (kind : FrameKind) (p : Reg) : Prop :=
  ∃ t, exec i s = .next t ∧ t.host.holding = false ∧
    t.host.report = some { opcode := some op, answer := .failed (.transport how kind p) none }

/-- Each kind of frame: V-ACC-12, V-ACC-13, V-ACC-10; each engine clause: V-CNV-12 from Ready, `armComparator`'s Config
write and one of its threshold writes, and a Conversion read. -/
theorem witness_TransportErrorIsTheLastFrame :
    EndsInTransport (.readRegister 1) (withFrames w0 [.timeout false]) 0x10#8 .timeout .ptr .config ∧
    EndsInTransport (.readRegister 0) (withFrames w0 [.ack, .nak true]) 0x10#8 .nak .rd .conversion ∧
    EndsInTransport (.writeRegister 1 0x8583#16) (withFrames w0 [.nak false]) 0x11#8 .nak .wr .config ∧
    EndsInTransport (.startSingleShot 4 0) (withFrames (world fresh0 none .ready) [.nak false]) 0x30#8 .nak .wr .config ∧
    EndsInTransport (.armComparator 0 0 0 0 0 1 0#64 0#64) (withFrames (world fresh0 none .ready) [.ack, .ack, .nak true])
      0x42#8 .nak .wr .config ∧
    EndsInTransport (.armComparator 0 0 0 0 0 1 0#64 0#64) (withFrames (world fresh0 none .ready) [.ack, .nak true])
      0x42#8 .nak .wr .high ∧
    EndsInTransport (.readConversion 5) (withFrames (world fresh0 none .ready) [.ack, .timeout true])
      0x32#8 .timeout .rd .conversion :=
  ⟨⟨_, rfl, rfl, rfl⟩, ⟨_, rfl, rfl, rfl⟩, ⟨_, rfl, rfl, rfl⟩, ⟨_, rfl, rfl, rfl⟩, ⟨_, rfl, rfl, rfl⟩,
    ⟨_, rfl, rfl, rfl⟩, ⟨_, rfl, rfl, rfl⟩⟩

/-- A write that is acknowledged, and one that is not. -/
theorem witness_CacheFollowsAcknowledgedWrites :
    (∃ t sent, exec (.writeRegister 1 0x0583#16) w0 = .next t ∧ SentBetween w0 t sent) ∧
    (∃ t sent, exec (.writeRegister 1 0x0583#16) (withFrames w0 [.nak true]) = .next t ∧
      SentBetween (withFrames w0 [.nak true]) t sent) :=
  ⟨⟨_, [_], rfl, rfl⟩, ⟨_, [_], rfl, rfl⟩⟩

theorem witness_CacheKeepsAgreeingWithTheDevice :
    (world windowed (some 0x4294#16) .ready).CacheAgrees ∧
    ∃ t sent, exec .disableComparator (world windowed (some 0x4294#16) .ready) = .next t ∧
      SentBetween (world windowed (some 0x4294#16) .ready) t sent ∧
      (∀ x ∈ sent, ∀ a r v, x.frame = .wr a r v → x.sender = .controller ∧ x.failure = none) := by
  refine ⟨?_, _, [sentAck (.wr 0x48#7 .config 0x4297#16) []], rfl, rfl, ?_⟩
  · rintro c d ⟨⟩ ⟨⟩
    decide
  · intro x hx a r v _
    simp at hx
    subst hx
    exact ⟨rfl, rfl⟩

/-- Each group: one Config write, a register write, and the two commands of several frames. -/
theorem witness_WritingCommandsFrame :
    (∃ t, exec (.startSingleShot 0 0) w0 = .next t) ∧ (∃ t, exec (.writeRegister 3 0x8000#16) w0 = .next t) ∧
    (∃ t, exec (.setThresholds 0#16 0xFFFF#16) w0 = .next t) ∧ w0.env.quiet 2 ∧
    w0.devices.get .gnd = some fresh0 ∧ Strap.vdd.addr ≠ w0.handle.addr :=
  ⟨⟨_, rfl⟩, ⟨_, rfl⟩, ⟨_, rfl⟩, (world_acks ..).2.2.2.2.1, rfl, by decide⟩

/-- Quiet gaps for a whole wait. -/
def waiting : State :=
  { w0 with env := { w0.env with gaps := List.replicate (alertPolls 0 w0.handle.dataRate + 3) [] } }

/-- Each group: the single reads, the poll and the wait, with enough quiet gaps for each. -/
theorem witness_ReadingCommandsFrame :
    (∃ t, exec (.readRegister 0) w0 = .next t) ∧ (∃ t, exec (.readConversion 0) w0 = .next t) ∧ w0.env.quiet 1 ∧
    (∃ t, exec (.pollUntilReady 4) silent = .next t) ∧ silent.env.quiet (2 * maxPolls .sps128) ∧
    (∃ t, exec (.waitForAlert 0 5) waiting = .next t) ∧
    waiting.env.quiet (alertPolls 0 waiting.handle.dataRate + 3) :=
  ⟨⟨_, rfl⟩, ⟨_, rfl⟩, (world_acks ..).2.2.2.1,
    run_ends (pollLoop_ends .sps128 (maxPolls .sps128) 0x48#7 (maxPolls .sps128)) false silent,
    ⟨[], (List.append_nil _).symm⟩,
    run_ends (alertLoop_ends .fs0256 0 (alertPolls 0 waiting.handle.dataRate) 0x48#7
      (alertPolls 0 waiting.handle.dataRate)) false waiting,
    ⟨[], (List.append_nil _).symm⟩⟩

theorem witness_StatusCodesOfResults : ∀ what, HostError.lineArm ≠ .config what := by intro _ h; cases h

/-- The first of two operands that are out of range, and the first index outside each domain: address 4, channel and data
rate 8, gain 6, the two-valued fields 2, RegId 4, depth 3. -/
theorem witness_OutOfRangeIndexIsAConfigError :
    firstBad [(8 ≤ 7, .channel), (6 ≤ 6, .gain), (2 ≤ 2, .mode)] = some .gain ∧
    firstBad [(2 ≤ 1, .latch), (3 ∉ [0, 1, 2, 4], .queueDepth)] = some .queueDepth ∧
    checkChannel 8 = .error .channel ∧ checkChannel 7 = .ok .ain3Gnd ∧ checkGain 6 = .error .gain ∧
    checkGain 5 = .ok .fs0256 ∧ checkMode 2 = .error .mode ∧ checkMode 1 = .ok .singleShot ∧
    checkDataRate 8 = .error .dataRate ∧ checkDataRate 7 = .ok .sps860 ∧ checkCompareMode 2 = .error .compareMode ∧
    checkPolarity 2 = .error .polarity ∧ checkLatch 2 = .error .latch ∧ Reg.ofIndex 4 = none ∧
    Reg.ofIndex 3 = some .high ∧ checkDepthOrDisabled 3 = .error .queueDepth ∧ checkDepth 0 = .error .queueDepth ∧
    Strap.ofIndex 4 = none ∧ Strap.ofIndex 3 = some .scl ∧ Fp.isFinite 0#64 = true ∧
    ((3 : Nat) ≠ 0 ∧ (3 : Nat) ≠ 1 ∧ (3 : Nat) ≠ 2 ∧ (3 : Nat) ≠ 4) ∧
    w0.handle.live = true ∧ w0.handle.engine = .idle ∧ silent.handle.live = true ∧ silent.handle.engine = .converting := by
  decide

end Sys2Proof.Tests
end

section
/-! The data rates, the least quotient and the two bounds of the waiting commands. -/

namespace Sys2Proof

/-! ### Data-rate codes and indices (R59, R66) -/

/-- A DR code is the code of its rate. -/
@[simp] theorem DataRate.code_ofCode : ∀ c : BitVec 3, (DataRate.ofCode c).code = c := by decide

theorem DataRate.sps_pos (r : DataRate) : 0 < r.sps := by cases r <;> decide

end Sys2Proof

namespace Sys2Proof.Machine

theorem orCulprit_eq_ok {α : Type} {what : Culprit} {o : Option α} {a : α} :
    orCulprit what o = .ok a ↔ o = some a := by
  cases o <;> simp [orCulprit]

/-- A legal data-rate index is the DR code of its rate, and there are eight of them. -/
theorem checkDataRate_eq_ok {i : Nat} {r : DataRate} :
    checkDataRate i = .ok r ↔ i < 8 ∧ DataRate.ofCode (BitVec.ofNat 3 i) = r := by
  simp [checkDataRate, orCulprit_eq_ok]

/-- The rates listed in the order of their codes. -/
theorem rates_getElem_eq_ofCode : ∀ (i : Nat) (h : i < 8),
    [DataRate.sps8, .sps16, .sps32, .sps64, .sps128, .sps250, .sps475, .sps860][i]
      = DataRate.ofCode (BitVec.ofNat 3 i) := by
  decide

theorem checkDataRate_eq_ok_iff_getElem? (i : Nat) (r : DataRate) : checkDataRate i = .ok r ↔
    [DataRate.sps8, .sps16, .sps32, .sps64, .sps128, .sps250, .sps475, .sps860][i]? = some r := by
  rw [checkDataRate_eq_ok, List.getElem?_eq_some_iff]
  constructor
  · rintro ⟨h, rfl⟩
    exact ⟨h, rates_getElem_eq_ofCode i h⟩
  · rintro ⟨h, rfl⟩
    exact ⟨h, (rates_getElem_eq_ofCode i h).symm⟩

/-! ### The least quotient (R14) -/

theorem ceilDiv_le_iff {a b q : Nat} (hb : 0 < b) : ceilDiv a b ≤ q ↔ a ≤ q * b := by
  rw [ceilDiv, Nat.div_le_iff_le_mul hb]
  omega

theorem ceilDiv_pos {a b : Nat} (ha : 0 < a) (hb : 0 < b) : 0 < ceilDiv a b :=
  Nat.div_pos (by omega) hb

theorem ceilDiv_zero {b : Nat} (hb : 0 < b) : ceilDiv 0 b = 0 :=
  Nat.le_zero.mp ((ceilDiv_le_iff hb).mpr (Nat.zero_le _))

/-! ### The bounds (R112, R116, R135) -/

theorem settleMs_pos (r : DataRate) : 0 < settleMs r := ceilDiv_pos (by decide) r.sps_pos

/-- At least one look after the first, whatever the margin and the interval. -/
theorem two_le_maxPollsFor (margin : Nat) {interval : Nat} (r : DataRate) (h : 0 < interval) :
    2 ≤ maxPollsFor margin interval r :=
  Nat.add_le_add_left (ceilDiv_pos (Nat.add_pos_left (settleMs_pos r) margin) h) 1

/-- A timeout of no samples leaves one look. -/
theorem alertPollsFor_zero {interval : Nat} (r : DataRate) (h : 0 < interval) : alertPollsFor interval 0 r = 1 := by
  rw [alertPollsFor, Nat.zero_mul, ceilDiv_zero (Nat.mul_pos r.sps_pos h)]

/-- Settles O29, from the index table, the least-quotient law and the two bounds' extreme values. -/
theorem rateTableAndBounds : Obligations.RateTableAndBounds := by
  unfold Obligations.RateTableAndBounds
  refine ⟨by decide, by decide, by decide, checkDataRate_eq_ok_iff_getElem?, DataRate.code_ofCode,
    fun _ _ _ => ceilDiv_le_iff, ?polls, ?alerts, Nat.succ_pos _, Nat.succ_pos _, fun _ => rfl, fun _ _ => rfl⟩
  case polls => exact fun margin _ r h => ⟨rfl, two_le_maxPollsFor margin r h⟩
  case alerts => exact fun _ _ r h => ⟨rfl, alertPollsFor_zero r h⟩

end Sys2Proof.Machine
end

section
/-! The invariant of Safety.lean: at reset, and kept by every operation up to the step. -/

namespace Sys2Proof.Machine

/-! ### Reset -/

/-- Every bus position is populated at reset, by a device at power-on reset. -/
theorem State.reset_devices_get (a : Strap) : State.reset.devices.get a = some Device.reset := by cases a <;> rfl

theorem Device.reset_inv : Device.reset.Inv := ⟨by decide, rfl, rfl⟩

theorem Handle.absent_inv : Handle.absent.Inv := ⟨nofun, rfl, by decide⟩

/-- Settles O7: every device of the reset state is `Device.reset`, whose fields are the stated values. -/
theorem resetLeavesTheStatedValues : Obligations.ResetLeavesTheStatedValues := by
  unfold Obligations.ResetLeavesTheStatedValues
  refine ⟨fun a d h => ?_, rfl, rfl⟩
  obtain rfl : Device.reset = d := Option.some.inj ((State.reset_devices_get a).symm.trans h)
  decide

/-- Settles O8: a device at power-on reset and the handle before `init` meet theirs, and there is no other session. -/
theorem resetMeetsTheInvariant : Obligations.ResetMeetsTheInvariant := by
  refine ⟨fun a d h => ?_, Handle.absent_inv, fun _ h => absurd h List.not_mem_nil⟩
  obtain rfl : Device.reset = d := Option.some.inj ((State.reset_devices_get a).symm.trans h)
  exact Device.reset_inv

/-! ### The pin (R31) -/

/-- Settles O10, by the pin's two tests: COMP_QUE, then whether the alert equals COMP_POL. -/
theorem pinLevelFollowsState : Obligations.PinLevelFollowsState := by
  intro d
  have disabled : d.compQue = 0b11#2 → d.pin = .highZ := fun h => if_pos h
  have enabled : d.compQue ≠ 0b11#2 → d.pin = if d.alert = d.activeHigh then .high else .low := fun h => if_neg h
  refine ⟨disabled, ?_, ?_, ?_, ?_⟩ <;>
    (intro hq ha hp; rw [enabled hq, Device.activeHigh, ha, hp]; rfl)

/-! ### One device -/

/-- R105's table: the converter free-runs after a Config write exactly where the word has MODE = 0. -/
theorem modeAfterWrite_eq_continuous {v : Word} {m : ConvMode} :
    modeAfterWrite v m = .continuous ↔ v.getLsbD 8 = false := by
  unfold modeAfterWrite
  cases v.getLsbD 8 with
  | false => simp
  | true => cases m <;> cases v.getLsbD 15 <;> simp

/-- The invariant of a device whose comparator is disabled. -/
theorem Device.inv_iff_of_disabled {d : Device} (hq : d.depth = none) :
    d.Inv ↔ (d.mode = .continuous ↔ d.singleShot = false) ∧ d.cnt = 0 ∧ d.alert = false := by
  simp [Device.Inv, hq]

/-- The invariant of a device whose comparator is enabled with depth `n`. -/
theorem Device.inv_iff_of_depth {d : Device} {n : Nat} (hq : d.depth = some n) :
    d.Inv ↔ (d.mode = .continuous ↔ d.singleShot = false) ∧ d.cnt ≤ n := by
  simp [Device.Inv, hq]

/-- A count and an alert just cleared suit every COMP_QUE. -/
theorem Device.inv_of_cleared {d : Device} (hm : d.mode = .continuous ↔ d.singleShot = false) (hc : d.cnt = 0)
    (ha : d.alert = false) : d.Inv := by
  cases hq : d.depth with
  | none => exact (Device.inv_iff_of_disabled hq).mpr ⟨hm, hc, ha⟩
  | some n => exact (Device.inv_iff_of_depth hq).mpr ⟨hm, hc ▸ n.zero_le⟩

theorem Device.Inv.write {d : Device} (h : d.Inv) (r : WReg) (v : Word) : (d.write r v).Inv := by
  cases r with
  | config =>
    refine Device.inv_of_cleared ?_ rfl rfl
    simp [modeAfterWrite_eq_continuous, Device.singleShot]
  | low | high => exact h

theorem Device.Inv.latchClearOnRead {d : Device} (h : d.Inv) : d.latchClearOnRead.Inv := by
  cases hq : d.depth with
  | none =>
    obtain ⟨hm, hc, ha⟩ := (Device.inv_iff_of_disabled hq).mp h
    exact Device.inv_of_cleared hm hc (by simp [Device.latchClearOnRead, ha])
  | some n =>
    obtain ⟨hm, hc⟩ := (Device.inv_iff_of_depth hq).mp h
    exact (Device.inv_iff_of_depth (by exact hq)).mpr ⟨hm, hc⟩

theorem Device.Inv.deliver {d : Device} (h : d.Inv) (f : Frame) : (d.deliver f).Inv := by
  cases f with
  | ptr x p => exact h
  | wr x r v => exact Device.Inv.write (d := { d with ptr := r.toReg }) h r v
  | rd x =>
    show d.afterRead.Inv
    unfold Device.afterRead
    split
    · exact Device.Inv.latchClearOnRead h
    · exact h

/-- A sample leaves a disabled comparator cleared and counts an enabled one at most to its depth (R121). -/
theorem Device.Inv.compareSample {d : Device} (h : d.Inv) (s : Word) (al : Bool) (c : Nat) :
    (d.compareSample s al c).Inv := by
  obtain ⟨hm, -⟩ := h
  unfold Device.compareSample
  split
  · exact Device.inv_of_cleared hm rfl rfl
  · rename_i n hq
    split
    · exact (Device.inv_iff_of_depth (by exact hq)).mpr ⟨hm, Nat.le_of_lt_succ (Nat.mod_lt _ n.succ_pos)⟩
    · refine (Device.inv_iff_of_depth (by exact hq)).mpr ⟨hm, ?_⟩
      dsimp only
      split
      · exact Nat.min_le_right ..
      · exact n.zero_le

/-- The end of a single conversion powers the converter down, and it was not free-running before (R106). -/
theorem Device.Inv.complete {d : Device} (h : d.Inv) (s : Word) (al : Bool) (c : Nat) : (d.complete s al c).Inv := by
  have hs : (Device.compareSample { d with conversion := s, fresh := true } s al c).Inv :=
    Device.Inv.compareSample (d := { d with conversion := s, fresh := true }) h s al c
  unfold Device.complete
  generalize Device.compareSample { d with conversion := s, fresh := true } s al c = e at hs
  obtain ⟨hm, hq⟩ := hs
  refine ⟨Iff.trans ?_ hm, hq⟩
  dsimp only
  cases e.mode <;> decide

/-! ### The devices on the bus -/

theorem Devices.Inv.set {ds : Devices} (h : ds.Inv) {a : Strap} {d : Device} (hd : d.Inv) :
    (ds.set a (some d)).Inv := by
  intro b e he
  rw [Devices.get_set] at he
  split at he
  · cases he; exact hd
  · exact h b e he

theorem Devices.Inv.deliver {ds : Devices} (h : ds.Inv) (f : Frame) : (ds.deliver f).Inv := by
  unfold Devices.deliver
  split
  · exact h
  · rename_i a _
    cases hd : ds.get a with
    | none => rwa [Option.map_none, ← hd, Devices.set_get]
    | some d => exact h.set ((h a d hd).deliver f)

/-! ### A handle -/

theorem Handle.Inv.setEngine {h : Handle} (hi : h.Inv) {e : Engine} (he : e ≠ .configuring) : (h.setEngine e).Inv := by
  obtain ⟨ha, hg, -⟩ := hi
  exact ⟨ha, hg, he⟩

theorem Handle.Inv.commit {h : Handle} (hi : h.Inv) (v : Word) : (h.commit v).Inv := by
  obtain ⟨ha, -, he⟩ := hi
  exact ⟨ha, rfl, he⟩

/-- A Config write that leaves Configuring again keeps the handle legal, however its frame ends (R92, R108). -/
theorem Handle.Inv.afterConfigWrite {h : Handle} (hi : h.Inv) (v : Word) {after : Option Engine}
    (ha : after ≠ some .configuring) (r : Except BusFailure (List Byte)) : (h.afterConfigWrite v after r).Inv := by
  cases after with
  | none =>
    cases r with
    | ok => exact hi.commit v
    | error => exact hi
  | some e =>
    cases r with
    | ok => exact (hi.commit v).setEngine (by simpa using ha)
    | error => exact hi.setEngine (by decide)

theorem Handle.Inv.onHandle {h : Handle} (hi : h.Inv) {u : Update} (hu : u.legal) : (u.onHandle h).Inv := by
  cases u with
  | engine e => exact hi.setEngine hu
  | create x => exact ⟨fun _ => hu, rfl, nofun⟩
  | kill =>
    obtain ⟨-, hg, he⟩ := hi
    exact ⟨nofun, hg, he⟩
  | disarm => exact hi

/-! ### A controller step, whatever session takes it -/

theorem Handle.Inv.perform {h : Handle} (hi : h.Inv) {a : Action} (ha : a.legal) (who : Sender) (w : Draws) (l : Line)
    (ds : Devices) : (Machine.perform who w h l ds a).handle.Inv := by
  cases a with
  | config v after => exact hi.afterConfigWrite v ha _
  | tx | arm | look | clearFlag | waits => exact hi

theorem Devices.Inv.perform {ds : Devices} (hi : ds.Inv) {who : Sender} {w : Draws} {h : Handle} {l : Line}
    {a : Action} : (Machine.perform who w h l ds a).devices.Inv := by
  obtain he | ⟨f, he⟩ := Machine.perform_devices who w h l ds a <;> rw [he]
  · exact hi
  · exact hi.deliver f

/-! ### A controller step of another session -/

/-- What a turn of a session can be: it stays where it is but for a refusal it meets, or it goes on with the routine of
an instruction. -/
theorem Session.turn_cases (p : Session) (w : Draws) (ds : Devices) :
    (∃ r, p.turn w ds = ({ p with refused := r }, ds, [])) ∨
    ∃ i, p.turn w ds =
      ((routine i p.progress.start p.host.holding).replay p.progress.replies).turn w ds p.progress p := by
  unfold Session.turn
  split
  · exact .inl ⟨p.refused, rfl⟩
  · exact .inl ⟨p.refused, rfl⟩
  · split
    · exact .inl ⟨_, rfl⟩
    · exact .inr ⟨_, rfl⟩

theorem Routine.turn_inv {m : Routine} (hm : m.All Update.legal Action.legal) {p : Session} (hp : p.handle.Inv)
    {ds : Devices} (hd : ds.Inv) (w : Draws) (reached : Progress) :
    (m.turn w ds reached p).1.handle.Inv ∧ (m.turn w ds reached p).2.1.Inv := by
  induction m generalizing p with
  | done | hold | refuse => exact ⟨hp, hd⟩
  | set u rest ih => exact ih hm.2 (hp.onHandle hm.1)
  | ask a next _ => exact ⟨hp.perform hm.1 .., hd.perform⟩

theorem Session.turn_inv {p : Session} (hp : p.handle.Inv) {ds : Devices} (hd : ds.Inv) (w : Draws) :
    (p.turn w ds).1.handle.Inv ∧ (p.turn w ds).2.1.Inv := by
  obtain ⟨r, h⟩ | ⟨i, h⟩ := p.turn_cases w ds <;> rw [h]
  · exact ⟨hp, hd⟩
  · exact Routine.turn_inv (all_replay (routine_legal ..) _) hp hd w _

/-! ### The other agents -/

theorem State.Inv.convert {s : State} (h : s.Inv) (a : Strap) (x : Word) (al : Bool) (c : Nat) :
    (s.convert a x al c).Inv := by
  obtain ⟨hd, hh, ho⟩ := h
  unfold State.convert
  split
  · exact ⟨hd, hh, ho⟩
  · rename_i d hget
    have hset := hd.set (a := a) ((hd a d hget).complete x al c)
    split
    · dsimp only
      split
      · exact ⟨hset, hh, by simpa using ho⟩
      · exact ⟨hset, hh, ho⟩
    · exact ⟨hd, hh, ho⟩

theorem State.Inv.agentStep {s : State} (h : s.Inv) (x : AgentStep) : (s.agentStep x).Inv := by
  obtain ⟨hd, hh, ho⟩ := id h
  cases x with
  | convert a v al c => exact h.convert a v al c
  | deliver => exact h
  | deliverOther k =>
    refine ⟨hd, hh, fun p hp => ?_⟩
    obtain ⟨j, hj⟩ := List.mem_iff_getElem?.mp hp
    simp only [State.agentStep, List.getElem?_modify] at hj
    obtain ⟨q, hq, rfl⟩ := Option.map_eq_some_iff.mp hj
    split <;> exact ho q (List.mem_of_getElem? hq)
  | controller k w =>
    unfold State.agentStep
    dsimp only
    split
    · exact h
    · rename_i p hp
      obtain ⟨hq, hds⟩ := Session.turn_inv (ho p (List.mem_of_getElem? hp)) hd w
      refine ⟨hds, hh, fun q hmem => ?_⟩
      obtain hmem | rfl := List.mem_or_eq_of_mem_set hmem
      · exact ho q hmem
      · exact hq
  | foreign f => exact ⟨hd.deliver f, hh, ho⟩

theorem State.Inv.agentSteps {s : State} (h : s.Inv) (xs : List AgentStep) : (s.agentSteps xs).Inv := by
  induction xs generalizing s with
  | nil => exact h
  | cons x xs ih => exact ih (h.agentStep x)

theorem State.Inv.gap {s : State} (h : s.Inv) : s.gap.Inv := by
  obtain ⟨-, hh, -⟩ := id h
  obtain ⟨hd, -, ho⟩ := h.agentSteps s.env.nextGap.1
  exact ⟨hd, hh, ho⟩

/-! ### A command run whole -/

/-- A property of states that everything a running command can do keeps: the gaps, its controller steps, its updates, and
its two endings in a next state. -/
structure KeptByRun (K : State → Prop) : Prop where
  gap     : ∀ s, K s → K s.gap
  perform : ∀ s a, a.legal → K s → K (s.perform a).2
  update  : ∀ s u, u.legal → K s → K (s.update u)
  answer  : ∀ s op a, K s → K (s.answer op a)
  hold    : ∀ s, K s → K { s with host := { s.host with holding := true } }

theorem Routine.run_keeps {K : State → Prop} (k : KeptByRun K) {m : Routine} (hm : m.All Update.legal Action.legal)
    {begun : Bool} {s t : State} (h : m.run begun s = .next t) (hs : K s) : K t := by
  induction m generalizing begun s with
  | done op a => cases h; exact k.answer s op a hs
  | hold => cases h; exact k.hold s hs
  | refuse r => cases h
  | set u rest ih => exact ih hm.2 h (k.update s u hm.1 hs)
  | ask a next ih =>
    refine ih _ (hm.2 _) h (k.perform _ a hm.1 ?_)
    cases begun
    · exact hs
    · exact k.gap s hs

/-- What a run keeps, every command keeps, whatever the bus and the other agents do. -/
theorem exec_keeps {K : State → Prop} (k : KeptByRun K) {i : Instr} {s t : State} (h : exec i s = .next t) (hs : K s) :
    K t := by
  rw [exec_eq_run] at h
  exact Routine.run_keeps k (routine_legal ..) h hs

theorem State.inv_keptByRun : KeptByRun State.Inv where
  gap _ h := h.gap
  perform := fun _ _ ha ⟨hd, hh, ho⟩ => ⟨hd.perform, hh.perform ha .., ho⟩
  update := fun _ _ hu ⟨hd, hh, ho⟩ => ⟨hd, hh.onHandle hu, ho⟩
  answer _ _ _ h := h
  hold _ h := h

/-! ### The step -/

/-- Sealing a step answers the state itself or refuses. -/
theorem State.seal_eq_next {before : List Session} {s t : State} (h : State.seal before s = .next t) : t = s := by
  unfold State.seal at h
  split at h
  · cases h; rfl
  · split at h <;> cases h
    rfl

/-- A step that answers a next state has let the other agents step and, where there was a command to issue, run it and
moved its host on. -/
theorem step_cases {s t : State} (h : step s = .next t) :
    t = s.gap ∨ ∃ i u, exec i s.gap = .next u ∧ t = { u with host := u.host.advance } := by
  unfold step at h
  dsimp only at h
  split at h
  · exact .inl (State.seal_eq_next h)
  · split at h
    · cases h
    · rename_i i _
      cases hx : exec i s.gap with
      | next u =>
        rw [hx] at h
        exact .inr ⟨i, u, hx, State.seal_eq_next h⟩
      | fault f => rw [hx] at h; cases h
      | refused r => rw [hx] at h; cases h

/-- Settles O9: a gap keeps the invariant, a command run whole keeps it, and the host's advance touches neither device
nor handle. -/
theorem stepKeepsTheInvariant : Obligations.StepKeepsTheInvariant := by
  intro s t hs h
  obtain rfl | ⟨i, u, hx, rfl⟩ := step_cases h
  · exact hs.gap
  · have hu : u.Inv := exec_keeps State.inv_keptByRun hx hs.gap
    exact hu

end Sys2Proof.Machine
end

section
/-! Commands and programs: what a command leaves of its host and of the other sessions, and what a controller step of
another session puts on the bus. -/

namespace Sys2Proof.Machine

/-! ### A raw Config write -/

/-- Settles O12: the mode is that of `modeAfterWrite`, whose branches are R105's rows. -/
theorem rawConfigWriteActsOnTheConverter : Obligations.RawConfigWriteActsOnTheConverter := by
  rintro s a d v hd ⟨rest, hb⟩
  refine ⟨modeAfterWrite v d.mode, ?_, fun h => modeAfterWrite_eq_continuous.mpr h, ?_, ?_, ?_, ?_⟩
  · rw [exec_eq_run]
    show (rawFrame (.wr a.addr .config v)).run false s = _
    rw [rawFrame, Routine.run_first, State.perform_tx_ack rfl hd hb rfl]
    simp [Routine.run, State.served, Env.after, hb, rawAnswer, Reply.outcome, Device.deliver, Device.reply, WReg.toReg]
  all_goals simp +contextual [modeAfterWrite]

/-! ### What the draws leave of the environment -/

/-- No draw turns the counter back. -/
theorem le_draw {α : Type} (free : Nat → α) (n : Nat) (xs : List α) : n ≤ (draw free n xs).2.2 := by
  cases xs with
  | nil => exact n.le_succ
  | cons => exact n.le_refl

/-- The draws of a controller step do not turn the counter back, and take nothing from the gaps. -/
theorem Env.drawsFor_keeps (e : Env) (ds : Devices) (x : Addr) (a : Action) :
    e.drawn ≤ (e.drawsFor ds x a).2.drawn ∧ (e.drawsFor ds x a).2.gaps = e.gaps := by
  have frame : ∀ f, e.drawn ≤ (e.frameDraws ds f).2.drawn ∧ (e.frameDraws ds f).2.gaps = e.gaps := by
    intro f
    unfold Env.frameDraws
    dsimp only
    split
    · exact ⟨(le_draw ..).trans (le_draw ..), rfl⟩
    · exact ⟨le_draw .., rfl⟩
  cases a with
  | tx f => exact frame f
  | config v after => exact frame _
  | arm => exact ⟨le_draw .., rfl⟩
  | look | clearFlag | waits => exact ⟨Nat.le_refl _, rfl⟩

/-! ### A command and its host -/

/-- What a command run whole leaves of the state it began in: the host's program and position, and how many other
sessions there are. -/
def SameProgram (s t : State) : Prop :=
  t.host.pending = s.host.pending ∧ t.host.index = s.host.index ∧ t.host.status = s.host.status ∧
  t.others.length = s.others.length

theorem SameProgram.keptByRun (s : State) : KeptByRun (SameProgram s) where
  gap u h := by
    obtain ⟨-, -, -, hlen, -⟩ := u.agentSteps_keeps u.env.nextGap.1
    obtain ⟨hp, hi, hs, ho⟩ := h
    exact ⟨hp, hi, hs, hlen.trans ho⟩
  perform _ _ _ h := h
  update _ _ _ h := h
  answer _ _ _ h := h
  hold _ h := h

/-- As long as no free value has been drawn since `s`, whose gaps are all empty, every gap since was one of those, so no
other session has moved. -/
def QuietSince (s t : State) : Prop :=
  s.env.drawn ≤ t.env.drawn ∧
  (t.env.drawn = s.env.drawn → (∀ g ∈ t.env.gaps, g = []) ∧ t.others = s.others)

theorem QuietSince.gap {s u : State} (h : QuietSince s u) : QuietSince s u.gap := by
  obtain ⟨hle, hq⟩ := h
  cases hg : u.env.gaps with
  | nil =>
    have hd : u.gap.env.drawn = u.env.drawn + 1 := by simp [State.gap_env, Env.nextGap, draw, hg]
    exact ⟨by omega, fun he => by omega⟩
  | cons g gs =>
    have hd : u.gap.env.drawn = u.env.drawn := by simp [State.gap_env, Env.nextGap_cons hg]
    refine ⟨hd ▸ hle, fun he => ?_⟩
    obtain ⟨hgaps, ho⟩ := hq (hd ▸ he)
    rw [hg, List.forall_mem_cons] at hgaps
    obtain ⟨rfl, hgs⟩ := hgaps
    rw [State.gap_quiet hg]
    exact ⟨hgs, ho⟩

theorem QuietSince.keptByRun (s : State) : KeptByRun (QuietSince s) where
  gap _ h := h.gap
  perform u a _ h := by
    obtain ⟨hle, hq⟩ := h
    obtain ⟨hmono, hgaps⟩ := u.env.drawsFor_keeps u.devices u.handle.addr a
    refine ⟨hle.trans hmono, fun he => ?_⟩
    obtain ⟨hempty, ho⟩ := hq (Nat.le_antisymm (hmono.trans_eq he) hle)
    exact ⟨hgaps ▸ hempty, ho⟩
  update _ _ _ h := h
  answer _ _ _ h := h
  hold _ h := h

/-! ### A controller step of another session -/

/-- The devices went from `ds` to `ds'` by at most one whole frame, put on the wire under `who`: with its full effect
where it was acknowledged, with none or the full effect where it failed (R46, R73). -/
def AtMostOneFrame (who : Sender) (ds ds' : Devices) (sent : List Transfer) : Prop :=
  sent = [] ∧ ds' = ds ∨
  ∃ x, sent = [x] ∧ x.sender = who ∧ (x.failure = none → ds' = ds.deliver x.frame) ∧
    (x.failure ≠ none → ds' = ds ∨ ds' = ds.deliver x.frame)

theorem busTx_atMostOneFrame (who : Sender) (ds : Devices) (f : Frame) (w : Draws) :
    AtMostOneFrame who ds (busTx ds f w).2 [transferOf who f (busTx ds f w).1] := by
  refine .inr ⟨_, rfl, ?_⟩
  obtain ⟨d, -, h⟩ | ⟨how, took, h⟩ := busTx_cases ds f w <;> rw [h]
  · exact ⟨rfl, fun _ => rfl, fun hn => absurd rfl hn⟩
  · refine ⟨rfl, nofun, fun _ => ?_⟩
    cases took
    · exact .inl rfl
    · exact .inr rfl

theorem perform_atMostOneFrame (who : Sender) (w : Draws) (h : Handle) (l : Line) (ds : Devices) (a : Action) :
    AtMostOneFrame who ds (perform who w h l ds a).devices (perform who w h l ds a).sent := by
  cases a with
  | tx f => exact busTx_atMostOneFrame ..
  | config v after => exact busTx_atMostOneFrame ..
  | arm | look | clearFlag | waits => exact .inl ⟨rfl, rfl⟩

theorem Routine.turn_atMostOneFrame (m : Routine) (w : Draws) (ds : Devices) (reached : Progress) (p : Session) :
    AtMostOneFrame .other ds (m.turn w ds reached p).2.1 (m.turn w ds reached p).2.2 := by
  induction m generalizing p with
  | done | hold | refuse => exact .inl ⟨rfl, rfl⟩
  | set u rest ih => exact ih _
  | ask a next _ => exact perform_atMostOneFrame ..

theorem Session.turn_atMostOneFrame (p : Session) (w : Draws) (ds : Devices) :
    AtMostOneFrame .other ds (p.turn w ds).2.1 (p.turn w ds).2.2 := by
  obtain ⟨r, h⟩ | ⟨i, h⟩ := p.turn_cases w ds <;> rw [h]
  · exact .inl ⟨rfl, rfl⟩
  · exact Routine.turn_atMostOneFrame ..

/-- The step of the `k`-th other session is its turn on the state's devices. -/
theorem State.agentStep_controller {s : State} {k : Nat} {p : Session} (h : s.others[k]? = some p) (w : Draws) :
    s.agentStep (.controller k w) = { s with
      others := s.others.set k (p.turn w s.devices).1
      devices := (p.turn w s.devices).2.1
      wire := (p.turn w s.devices).2.2 ++ s.wire } := by
  simp [State.agentStep, h]

/-- A position with no session takes no step. -/
theorem State.agentStep_controller_none {s : State} {k : Nat} (h : s.others[k]? = none) (w : Draws) :
    s.agentStep (.controller k w) = s := by
  simp [State.agentStep, h]

/-- After its step the `k`-th other session is what its turn left. -/
theorem State.agentStep_controller_self {s : State} {k : Nat} {p : Session} (h : s.others[k]? = some p) (w : Draws) :
    (s.agentStep (.controller k w)).others[k]? = some (p.turn w s.devices).1 := by
  obtain ⟨hk, -⟩ := List.getElem?_eq_some_iff.mp h
  rw [State.agentStep_controller h]
  exact List.getElem?_set_self hk

/-! ### Another session's `readRegister 2`, frame by frame -/

/-- A session that has met no refusal goes on with the routine of the command its host issues. -/
theorem Session.turn_of_next {p : Session} {bytes : List Byte} {i : Instr} (hr : p.refused = none)
    (hn : p.host.next = some bytes) (hi : decode bytes = .ok i) (w : Draws) (ds : Devices) :
    p.turn w ds = ((routine i p.progress.start p.host.holding).replay p.progress.replies).turn w ds p.progress p := by
  simp [Session.turn, hr, hn, hi]

/-- A turn that stands at an acknowledged frame: its effect on the device, and the answer kept. -/
theorem Routine.turn_tx_ack {ds : Devices} {f : Frame} {w : Draws} {a : Strap} {d : Device} (hf : f.addr = a.addr)
    (hd : ds.get a = some d) (hw : w.bus = .ack) (reached : Progress) (next : Reply → Routine) (p : Session) :
    (Routine.ask (.tx f) next).turn w ds reached p =
      ({ p with busy := some { reached with replies := reached.replies ++ [.bus (.ok (d.reply w.os f))] } },
        ds.set a (some (d.deliver f)),
        [{ sender := .other, frame := f, failure := none, data := d.reply w.os f }]) := by
  simp [Routine.turn, perform, busTx_ack hf hd hw, transferOf]

/-- The session `p` is to issue `readRegister 2` to the device at `a`, with `rest` to follow. -/
structure Session.IssuesReadLow (p : Session) (a : Strap) (rest : List (List Byte)) : Prop where
  refused : p.refused = none
  status  : p.host.status = none
  pending : p.host.pending = [0x10#8, 0x02#8] :: rest
  live    : p.handle.live = true
  addr    : p.handle.addr = a.addr

/-- The session `p` in the midst of a command it began with its present handle, after these answers. -/
def Session.midway (p : Session) (replies : List Reply) : Session :=
  { p with busy := some { start := p.handle, replies } }

/-- The routine of `readRegister 2` on the device at `a` (R79, R82). -/
def readLow (a : Strap) : Routine :=
  memRead a.addr .low (raise Opcode.readRegister) fun v => succeed Opcode.readRegister (.word v)

theorem routine_readRegister_low {h : Handle} {a : Strap} (hl : h.live = true) (ha : h.addr = a.addr) (holding : Bool) :
    routine (.readRegister 2) h holding = readLow a := by
  simp [routine, readRegisterRoutine, require, hl, checked, orCulprit, Reg.ofIndex, readLow, ha]

section

variable {p : Session} {a : Strap} {rest : List (List Byte)} (h : p.IssuesReadLow a rest)
include h

/-- Wherever it stands in the command, the session goes on with what is left of `readLow`. -/
theorem Session.IssuesReadLow.turn_of_progress {busy : Option Progress} {replies : List Reply}
    (hb : ({ p with busy } : Session).progress = { start := p.handle, replies }) (w : Draws) (ds : Devices) :
    Session.turn { p with busy } w ds =
      ((readLow a).replay replies).turn w ds { start := p.handle, replies } { p with busy } := by
  have hn : p.host.next = some [0x10#8, 0x02#8] := by simp [HostAgent.next, h.status, h.pending]
  rw [Session.turn_of_next (p := { p with busy }) (i := .readRegister 2) h.refused hn (by decide), hb,
    routine_readRegister_low h.live h.addr]

/-- Its first controller step is the PTR frame. -/
theorem Session.IssuesReadLow.turn_first (hb : p.busy = none) {w : Draws} {ds : Devices} {d : Device}
    (hd : ds.get a = some d) (hw : w.bus = .ack) :
    p.turn w ds = (p.midway [.bus (.ok [])], ds.set a (some { d with ptr := .low }),
      [{ sender := .other, frame := .ptr a.addr .low, failure := none, data := [] }]) := by
  have ht := h.turn_of_progress (busy := p.busy) (replies := []) (by simp [Session.progress, hb]) w ds
  exact ht.trans (Routine.turn_tx_ack (f := .ptr a.addr .low) rfl hd hw ..)

/-- Its second controller step is the RD frame, which takes what the device sends then (R42, R79). -/
theorem Session.IssuesReadLow.turn_second {w : Draws} {ds : Devices} {e : Device}
    (he : ds.get a = some e) (hw : w.bus = .ack) :
    (p.midway [.bus (.ok [])]).turn w ds =
      (p.midway [.bus (.ok []), .bus (.ok (wordBytes (e.readValue w.os)))], ds.set a (some e.afterRead),
        [{ sender := .other, frame := .rd a.addr, failure := none, data := wordBytes (e.readValue w.os) }]) :=
  (h.turn_of_progress rfl w ds).trans (Routine.turn_tx_ack (f := .rd a.addr) rfl he hw ..)

/-- Its third controller step is its return with the word of the bytes it received. -/
theorem Session.IssuesReadLow.turn_third (v : Word) (w : Draws) (ds : Devices) :
    (p.midway [.bus (.ok []), .bus (.ok (wordBytes v))]).turn w ds =
      ({ p with host := (p.host.answer (some Opcode.readRegister) (.done (.word v))).advance, busy := none },
        ds, []) := by
  refine (h.turn_of_progress rfl w ds).trans ?_
  show ((succeed Opcode.readRegister (.word (joinBytes (wordBytes v)))).replay []).turn .. = _
  rw [joinBytes_wordBytes]
  rfl

end

/-- Settles O6: `SameProgram` and `QuietSince` are kept by a command run whole; a turn is at most one whole frame; and
the three turns of `readLow`, each on the devices as they then are. -/
theorem commandsLeaveTheProgramAlone : Obligations.CommandsLeaveTheProgramAlone := by
  refine ⟨?command, ?controller, ?reads⟩
  case command =>
    intro i s t h
    obtain ⟨hp, hi, hs, ho⟩ := exec_keeps (SameProgram.keptByRun s) h ⟨rfl, rfl, rfl, rfl⟩
    refine ⟨hp, hi, hs, ho, fun hg hd => ?_⟩
    obtain ⟨-, hq⟩ := exec_keeps (QuietSince.keptByRun s) h ⟨Nat.le_refl _, fun _ => ⟨hg, rfl⟩⟩
    exact (hq hd).2
  case controller =>
    rintro s t k w rfl
    cases hk : s.others[k]? with
    | none =>
      rw [State.agentStep_controller_none hk]
      exact ⟨rfl, rfl, rfl, rfl, fun _ _ => rfl, .inl ⟨rfl, rfl⟩⟩
    | some p =>
      rw [State.agentStep_controller hk]
      refine ⟨rfl, rfl, rfl, rfl, fun j hj => List.getElem?_set_ne (Ne.symm hj), ?_⟩
      obtain ⟨hsent, hds⟩ | ⟨x, hsent, hx⟩ := p.turn_atMostOneFrame w s.devices
      · exact .inl ⟨by simp [hsent], hds⟩
      · exact .inr ⟨x, by simp [hsent], hx⟩
  case reads =>
    intro s u u' k w1 w2 w3 p rest a d e hp hbusy hr hst _ hpend hlive haddr hd hw1 hw2 hu he hu'
    have h : p.IssuesReadLow a rest := ⟨hr, hst, hpend, hlive, haddr⟩
    have first := h.turn_first hbusy hd hw1
    have second := h.turn_second he hw2
    have hk1 := hu.trans (State.agentStep_controller_self hp w1)
    rw [first] at hk1
    have hk2 := hu'.trans (State.agentStep_controller_self hk1 w2)
    rw [second] at hk2
    have hk3 := State.agentStep_controller_self hk2 w3
    rw [h.turn_third] at hk3
    refine ⟨?_, ?_, ?_, _, hk3, rfl, rfl, rfl, hr, ?_, ?_, ?_⟩
    · rw [State.agentStep_controller hp, first]
    · intro hlow
      simp [Device.readValue, Device.value, hlow]
    · rw [State.agentStep_controller hk1, second]
      rfl
    · rfl
    · simp [HostAgent.advance, hpend]
    · rfl

end Sys2Proof.Machine
end

section
/-! What reading does: a raw RD frame on an acknowledging bus, and what the reading commands leave unchanged. -/

namespace Sys2Proof.Machine

/-! ### A raw RD frame (R74, R75) -/

/-- The draw CONT_OS_READ of an acknowledged read of `d`, and what it leaves of the queues: only a Config read in
Continuous mode takes one (R104). -/
def Env.readOs (e : Env) (d : Device) : Bool × Env :=
  if d.ptr = .config ∧ d.mode = .continuous then e.nextOsRead else (false, e)

theorem Env.readOs_of_fixed {e : Env} {d : Device} (h : d.ptr ≠ .config ∨ d.mode ≠ .continuous) :
    e.readOs d = (false, e) :=
  if_neg fun ⟨hp, hm⟩ => h.elim (absurd hp) (absurd hm)

theorem Env.readOs_of_free {e : Env} {d : Device} (hp : d.ptr = .config) (hm : d.mode = .continuous) :
    e.readOs d = e.nextOsRead :=
  if_pos ⟨hp, hm⟩

/-- An empty queue answers CONT_OS_READ with a free value and advances the counter (log entry 2). -/
theorem Env.nextOsRead_nil {e : Env} (h : e.osReads = []) :
    e.nextOsRead = (Config.freeOsRead e.drawn, { e with drawn := e.drawn + 1 }) := by
  cases e
  cases h
  rfl

/-- The draws of an acknowledged RD frame to a populated position. -/
theorem Env.frameDraws_rd_ack {e : Env} {ds : Devices} {a : Strap} {d : Device} {fs : List BusAnswer}
    (hd : ds.get a = some d) (hb : e.frames = .ack :: fs) :
    e.frameDraws ds (.rd a.addr) =
      ({ bus := .ack, os := ({ e with frames := fs }.readOs d).1, arms := false },
        ({ e with frames := fs }.readOs d).2) := by
  have hfree : readsFreeOs ds (.rd a.addr) = (decide (d.mode = .continuous) && decide (d.ptr = .config)) := by
    simp [readsFreeOs, hd]
  rw [Env.frameDraws, Env.nextFrame_cons hb, hfree]
  by_cases h : d.ptr = .config ∧ d.mode = .continuous
  · simp [Env.readOs_of_free h.1 h.2, h]
  · rw [Env.readOs_of_fixed (Decidable.not_and_iff_or_not.mp h)]
    exact if_neg (by simpa [and_comm] using h)

/-- An acknowledged raw RD frame: the word read is what `readValue` takes, whatever the pointer and the mode. -/
theorem exec_rd_ack {s : State} {a : Strap} {d : Device} {os : Bool} {e : Env} (hd : s.devices.get a = some d)
    (hb : s.env.acks 1) (ho : (s.env.after 1 0).readOs d = (os, e)) :
    exec (.rd a) s = .next (({ s.served a d.afterRead 1 0 [sentAck (.rd a.addr) (wordBytes (d.readValue os))] with
      env := e }).answer none (.frameAck (some (d.readValue os)))) := by
  obtain ⟨fs, hb⟩ := hb
  have hafter : { s.env with frames := fs } = s.env.after 1 0 := by simp [Env.after, hb]
  have hdraws := Env.frameDraws_rd_ack (fs := fs) hd hb
  rw [hafter, ho] at hdraws
  have htx := busTx_ack (f := .rd a.addr) (w := { bus := .ack, os, arms := false }) rfl hd rfl
  have hperform : s.perform (.tx (.rd a.addr)) = (.bus (.ok (wordBytes (d.readValue os))),
      { s.served a d.afterRead 1 0 [sentAck (.rd a.addr) (wordBytes (d.readValue os))] with env := e }) := by
    simp [State.perform, Env.drawsFor, hdraws, Machine.perform, htx, transferOf, State.served, sentAck, Device.reply,
      Device.deliver]
  rw [exec_eq_run]
  show (rawFrame (.rd a.addr)).run false s = _
  rw [rawFrame, Routine.run_first, hperform]
  simp [Routine.run, rawAnswer, Reply.outcome]

/-- A read leaves all but a latched alert, which a Conversion read clears (R45, R123). -/
theorem Device.afterRead_eq (d : Device) : d.afterRead =
    { d with alert := if d.ptr = .conversion ∧ d.cfg.getLsbD 2 = true then false else d.alert } := by
  unfold Device.afterRead
  split
  · simp [Device.latchClearOnRead, Device.latching, *]
  · simp [*]

/-- The word a Config read takes: the stored bits below the OS bit of R104. -/
theorem Device.readValue_config {d : Device} (hp : d.ptr = .config) (os : Bool) :
    (d.readValue os).extractLsb' 0 15 = d.cfg ∧ (d.readValue os).getLsbD 15 = (osRead d.mode).getD os := by
  rw [Device.readValue, hp]
  exact ⟨d.value_config_low _, d.value_config_os _⟩

/-- Settles O13: the word is `readValue` of the device with the draw `readOs`, case by case of the pointer and the
mode. -/
theorem rawReadReturnsTheRegisterAtThePointer : Obligations.RawReadReturnsTheRegisterAtThePointer := by
  intro s a d hd hb
  obtain ⟨os, e, ho⟩ : ∃ os e, (s.env.after 1 0).readOs d = (os, e) := ⟨_, _, rfl⟩
  refine ⟨d.readValue os, e, ?exec, ?conversion, ?low, ?high, ?config, ?undrawn⟩
  case exec => exact d.afterRead_eq ▸ exec_rd_ack hd hb ho
  case conversion | low | high => intro hp; rw [Device.readValue, hp, Device.value]
  case undrawn =>
    intro h
    rw [Env.readOs_of_fixed h] at ho
    exact (congrArg Prod.snd ho).symm
  case config =>
    intro hp
    obtain ⟨hlow, hos⟩ := Device.readValue_config hp os
    refine ⟨hlow, fun hm => by rw [hos, hm]; rfl, fun hm => by rw [hos, hm]; rfl, fun b rest hm hq => ?_,
      fun hm hq => ?_⟩
    · rw [Env.readOs_of_free hp hm, Env.nextOsRead_cons (by exact hq)] at ho
      cases ho
      exact ⟨by rw [hos, hm]; rfl, rfl⟩
    · rw [Env.readOs_of_free hp hm, Env.nextOsRead_nil (by exact hq)] at ho
      exact (congrArg Prod.snd ho).symm

/-! ### Routines of few steps -/

/-- The routine takes at most so many controller steps, whatever the answers, each of which meets `Q`, and every update
it can make meets `P`. -/
def Routine.Within (P : Update → Prop) (Q : Action → Prop) : Routine → Nat → Prop
  | .done _ _, _ => True
  | .hold, _ => True
  | .refuse _, _ => True
  | .set u rest, n => P u ∧ rest.Within P Q n
  | .ask _ _, 0 => False
  | .ask a next, n + 1 => Q a ∧ ∀ r, (next r).Within P Q n

section Within

variable {P : Update → Prop} {Q : Action → Prop}

theorem Routine.Within.mono {m : Routine} {n k : Nat} (h : m.Within P Q n) (hk : n ≤ k) : m.Within P Q k := by
  induction m generalizing n k with
  | done | hold | refuse => trivial
  | set u rest ih => exact ⟨h.1, ih h.2 hk⟩
  | ask a next ih =>
    cases n with
    | zero => exact h.elim
    | succ n =>
      obtain ⟨k, rfl⟩ : ∃ j, k = j + 1 := ⟨k - 1, by omega⟩
      exact ⟨h.1, fun r => ih r (h.2 r) (by omega)⟩

theorem within_require {c : Bool} {r : Refusal} {m : Routine} {n : Nat} (h : m.Within P Q n) :
    (require c r m).Within P Q n := by
  unfold require
  split
  · exact h
  · trivial

theorem within_checked {α : Type} {op : Byte} {c : Except Culprit α} {body : α → Routine} {n : Nat}
    (h : ∀ x, c = .ok x → (body x).Within P Q n) : (checked op c body).Within P Q n := by
  unfold checked
  split
  · trivial
  · exact h _ rfl

/-- `MemRead` takes two steps more than what follows it. -/
theorem within_memRead {x : Addr} {p : Reg} {onFail : HostError → Routine} {onRead : Word → Routine} {n : Nat}
    (hp : Q (.tx (.ptr x p))) (hr : Q (.tx (.rd x))) (hf : ∀ e, (onFail e).Within P Q n)
    (hv : ∀ v, (onRead v).Within P Q n) : (memRead x p onFail onRead).Within P Q (n + 2) := by
  refine ⟨hp, fun r1 => ?_⟩
  dsimp only
  split
  · exact (hf _).mono n.le_succ
  · refine ⟨hr, fun r2 => ?_⟩
    dsimp only
    split
    · exact hf _
    · exact hv _

theorem within_raiseIdle (op : Byte) (e : HostError) {n : Nat} (he : P (.engine .idle)) :
    (raiseIdle op e).Within P Q n :=
  ⟨he, trivial⟩

theorem within_checkedGainIdle {op : Byte} {gain : Nat} {body : Gain → Routine} {n : Nat} (he : P (.engine .idle))
    (h : ∀ g, (body g).Within P Q n) : (checkedGainIdle op gain body).Within P Q n := by
  unfold checkedGainIdle
  split
  · exact within_raiseIdle _ _ he
  · exact h _

theorem within_readSample (op : Byte) (g : Gain) {x : Addr} (hp : Q (.tx (.ptr x .conversion))) (hr : Q (.tx (.rd x)))
    (he : P (.engine .idle)) : (readSample op g x).Within P Q 2 :=
  within_memRead hp hr (fun e => within_raiseIdle op e he) fun _ => ⟨he, trivial⟩

/-- Each poll is two steps (R79, R113). -/
theorem within_pollLoop (rate : DataRate) (n : Nat) {x : Addr} (hp : Q (.tx (.ptr x .config))) (hr : Q (.tx (.rd x)))
    (he : ∀ e, P (.engine e)) (left : Nat) : (pollLoop rate n x left).Within P Q (2 * left) := by
  induction left with
  | zero => exact within_raiseIdle _ _ (he _)
  | succ k ih =>
    refine within_memRead hp hr (fun e => within_raiseIdle _ e (he _)) fun v => ?_
    split
    · exact ⟨he _, trivial⟩
    · exact ih

/-- Each look is one step, and the clear and the Conversion read that follow a set flag are three (R136). -/
theorem within_alertLoop (g : Gain) (k n : Nat) {x : Addr} (hp : Q (.tx (.ptr x .conversion))) (hr : Q (.tx (.rd x)))
    (hl : Q .look) (hc : Q .clearFlag) (he : P (.engine .idle)) (left : Nat) :
    (alertLoop g k n x left).Within P Q (left + 3) := by
  induction left with
  | zero => exact within_raiseIdle _ _ he
  | succ left ih =>
    rw [Nat.succ_add]
    refine ⟨hl, fun r => ?_⟩
    dsimp only
    split
    · exact ⟨hc, fun _ => (within_readSample _ g hp hr he).mono (Nat.le_add_left 2 left)⟩
    · exact ih

end Within

/-! ### A command run in quiet gaps -/

/-- A property of states that whatever a command with these updates and controller steps does keeps, as long as no other
agent steps: its draws, its controller steps, its updates, and its two endings in a next state. -/
structure KeptInQuiet (P : Update → Prop) (Q : Action → Prop) (K : State → Prop) : Prop where
  draws   : ∀ s e, K s → K { s with env := e }
  perform : ∀ s a, Q a → K s → K (s.perform a).2
  update  : ∀ s u, P u → K s → K (s.update u)
  answer  : ∀ s op a, K s → K (s.answer op a)
  hold    : ∀ s, K s → K { s with host := { s.host with holding := true } }

/-- The first of the quiet gaps. -/
theorem Env.quiet.gaps {e : Env} {n : Nat} (h : e.quiet (n + 1)) :
    ∃ gs, e.gaps = [] :: gs ∧ Env.quiet { e with gaps := gs } n := by
  obtain ⟨rest, h⟩ := h
  exact ⟨List.replicate n [] ++ rest, by rw [h]; rfl, rest, rfl⟩

theorem Env.quiet.perform {s : State} {n : Nat} (h : s.env.quiet n) (a : Action) : (s.perform a).2.env.quiet n := by
  obtain ⟨-, hg⟩ := s.env.drawsFor_keeps s.devices s.handle.addr a
  obtain ⟨rest, h⟩ := h
  exact ⟨rest, hg.trans h⟩

/-- A routine that takes no more steps than there are quiet gaps, and one more where its first step has no gap before
it. -/
theorem Routine.Within.run_keeps {P : Update → Prop} {Q : Action → Prop} {K : State → Prop} (k : KeptInQuiet P Q K)
    {m : Routine} {n : Nat} {begun : Bool} {s t : State} (hm : m.Within P Q (n + (!begun).toNat)) (hq : s.env.quiet n)
    (h : m.run begun s = .next t) (hs : K s) : K t := by
  induction m generalizing n begun s with
  | done op a => cases h; exact k.answer s op a hs
  | hold => cases h; exact k.hold s hs
  | refuse r => cases h
  | set u rest ih => exact ih (s := s.update u) hm.2 hq h (k.update s u hm.1 hs)
  | ask a next ih =>
    cases begun with
    | false => exact ih _ (begun := true) (hm.2 _) (hq.perform a) h (k.perform s a hm.1 hs)
    | true =>
      cases n with
      | zero => exact hm.elim
      | succ n =>
        obtain ⟨gs, hg, hq⟩ := hq.gaps
        rw [Routine.run_next_quiet hg] at h
        exact ih _ (begun := true) (hm.2 _) (hq.perform a) h (k.perform _ a hm.1 (k.draws s _ hs))

/-! ### What a read leaves of the devices -/

/-- Of the device `d` only the pointer has moved and a latched alert been cleared (R45, R123). -/
def Device.OnlyRead (d d' : Device) : Prop :=
  d' = { d with ptr := d'.ptr, alert := d'.alert } ∧ (d'.alert ≠ d.alert → d.cfg.getLsbD 2 = true ∧ d'.alert = false)

/-- No device but the one at bus address `x` has changed, and that one has only been read. -/
def Devices.OnlyRead (x : Addr) (ds ds' : Devices) : Prop :=
  (∀ b, b.addr ≠ x → ds'.get b = ds.get b) ∧
  ∀ b d, ds.get b = some d → ∃ d', ds'.get b = some d' ∧ d.OnlyRead d'

/-- A frame of `MemRead` to the device at bus address `x` (R79). -/
def ReadsAt (x : Addr) : Frame → Prop
  | .ptr y _ => y = x
  | .wr _ _ _ => False
  | .rd y => y = x

theorem ReadsAt.addr {x : Addr} {f : Frame} (h : ReadsAt x f) : f.addr = x := by
  cases f with
  | ptr | rd => exact h
  | wr => exact h.elim

theorem Device.OnlyRead.refl (d : Device) : d.OnlyRead d := ⟨rfl, fun h => absurd rfl h⟩

theorem Device.OnlyRead.afterRead {d d' : Device} (h : d.OnlyRead d') : d.OnlyRead d'.afterRead := by
  obtain ⟨hd, ha⟩ := h
  have hcfg : d'.cfg = d.cfg := by rw [hd]
  rw [Device.afterRead_eq]
  refine ⟨by rw [hd], ?_⟩
  dsimp only
  split
  · rename_i hc
    exact fun _ => ⟨hcfg ▸ hc.2, rfl⟩
  · exact ha

theorem Device.OnlyRead.deliver {d d' : Device} (h : d.OnlyRead d') {x : Addr} {f : Frame} (hf : ReadsAt x f) :
    d.OnlyRead (d'.deliver f) := by
  cases f with
  | ptr y p =>
    obtain ⟨hd, ha⟩ := h
    exact ⟨by rw [hd]; rfl, ha⟩
  | wr => exact hf.elim
  | rd y => exact h.afterRead

theorem Devices.OnlyRead.refl (x : Addr) (ds : Devices) : Devices.OnlyRead x ds ds :=
  ⟨fun _ _ => rfl, fun _ d hd => ⟨d, hd, .refl d⟩⟩

theorem Devices.OnlyRead.deliver {x : Addr} {ds ds' : Devices} (h : Devices.OnlyRead x ds ds') {f : Frame}
    (hf : ReadsAt x f) : Devices.OnlyRead x ds (ds'.deliver f) := by
  obtain ⟨hother, hown⟩ := h
  refine ⟨fun b hb => ?_, fun b d hd => ?_⟩
  · rw [Devices.deliver_other (hf.addr ▸ hb.symm), hother b hb]
  · obtain ⟨d', hd', hr⟩ := hown b d hd
    by_cases hb : f.addr = b.addr
    · exact ⟨d'.deliver f, by simp [Devices.deliver_of_get hb hd'], hr.deliver hf⟩
    · exact ⟨d', by rw [Devices.deliver_other hb, hd'], hr⟩

theorem Devices.OnlyRead.busTx {x : Addr} {ds ds' : Devices} (h : Devices.OnlyRead x ds ds') {f : Frame}
    (hf : ReadsAt x f) (w : Draws) : Devices.OnlyRead x ds (Machine.busTx ds' f w).2 := by
  obtain ⟨d, -, hb⟩ | ⟨how, took, hb⟩ := busTx_cases ds' f w <;> rw [hb]
  · exact h.deliver hf
  · cases took
    · exact h
    · exact h.deliver hf

/-! ### What the reading commands leave unchanged -/

/-- The updates of a reading command: engine moves, but none in `readRegister` (R82, R108). -/
def ReadUpdate (i : Instr) : Update → Prop
  | .engine _ => ∀ r, i ≠ .readRegister r
  | .create _ => False
  | .kill => False
  | .disarm => False

/-- The controller steps of a reading command on the device at bus address `x`: the frames of a read, looks at the flag
and, in `waitForAlert`, its clear (R79, R136). -/
def ReadAction (i : Instr) (x : Addr) : Action → Prop
  | .tx f => ReadsAt x f
  | .config _ _ => False
  | .arm => False
  | .look => True
  | .clearFlag => ∃ k g, i = .waitForAlert k g
  | .waits _ => False

/-- What the reading command `i` leaves of the state `s` it began in. -/
def ReadFrame (i : Instr) (s t : State) : Prop :=
  t.line.armed = s.line.armed ∧ t.line.edge = s.line.edge ∧
  ((∀ k g, i ≠ .waitForAlert k g) → t.line.flag = s.line.flag) ∧
  t.others = s.others ∧ t.handle = { s.handle with engine := t.handle.engine } ∧
  ((∃ r, i = .readRegister r) → t.handle.engine = s.handle.engine) ∧
  Devices.OnlyRead s.handle.addr s.devices t.devices

theorem ReadFrame.refl (i : Instr) (s : State) : ReadFrame i s s :=
  ⟨rfl, rfl, fun _ => rfl, rfl, rfl, fun _ => rfl, .refl _ _⟩

theorem ReadFrame.perform {i : Instr} {s u : State} {a : Action} (ha : ReadAction i s.handle.addr a)
    (h : ReadFrame i s u) : ReadFrame i s (u.perform a).2 := by
  obtain ⟨harmed, hedge, hflag, hothers, hhandle, hengine, hds⟩ := id h
  cases a with
  | tx f => exact ⟨harmed, hedge, hflag, hothers, hhandle, hengine, hds.busTx ha _⟩
  | look => exact h
  | clearFlag =>
    obtain ⟨k, g, hi⟩ := ha
    exact ⟨harmed, hedge, fun hn => absurd hi (hn k g), hothers, hhandle, hengine, hds⟩
  | config | arm | waits => exact ha.elim

theorem ReadFrame.update {i : Instr} {s t : State} {u : Update} (hu : ReadUpdate i u) (h : ReadFrame i s t) :
    ReadFrame i s (t.update u) := by
  obtain ⟨harmed, hedge, hflag, hothers, hhandle, -, hds⟩ := h
  cases u with
  | engine e =>
    exact ⟨harmed, hedge, hflag, hothers, (congrArg (Handle.setEngine · e) hhandle :),
      fun ⟨r, hi⟩ => absurd hi (hu r), hds⟩
  | create | kill | disarm => exact hu.elim

theorem ReadFrame.keptInQuiet (i : Instr) (s : State) :
    KeptInQuiet (ReadUpdate i) (ReadAction i s.handle.addr) (ReadFrame i s) where
  draws _ _ h := h
  perform _ _ ha h := h.perform ha
  update _ _ hu h := h.update hu
  answer _ _ _ h := h
  hold _ h := h

/-- `i` is a reading command, and `n` the quiet gaps O58 gives it on the handle `h`. -/
def ReadsInGaps (i : Instr) (h : Handle) (n : Nat) : Prop :=
  (∃ r, i = .readRegister r) ∧ n = 1 ∨ (∃ g, i = .readConversion g) ∧ n = 1 ∨
  (∃ ri r, i = .pollUntilReady ri ∧ checkDataRate ri = .ok r ∧ n = 2 * maxPolls r) ∨
  (∃ k g, i = .waitForAlert k g ∧ n = alertPolls k h.dataRate + 3)

/-- Every reading command is made of such updates and steps, at most one step more than its gaps. -/
theorem routine_within_of_readsInGaps {i : Instr} {n : Nat} {h : Handle} (holding : Bool) (hi : ReadsInGaps i h n) :
    (routine i h holding).Within (ReadUpdate i) (ReadAction i h.addr) (n + 1) := by
  have ptr : ∀ p, ReadAction i h.addr (.tx (.ptr h.addr p)) := fun _ => rfl
  have rd : ReadAction i h.addr (.tx (.rd h.addr)) := rfl
  have engine : (∀ r, i ≠ .readRegister r) → ∀ e, ReadUpdate i (.engine e) := fun hn _ => hn
  obtain ⟨⟨r, rfl⟩, rfl⟩ | ⟨⟨g, rfl⟩, rfl⟩ | ⟨ri, r, rfl, hr, rfl⟩ | ⟨k, g, rfl, rfl⟩ := hi
  · exact within_require (within_checked fun p _ => within_memRead (ptr p) rd (fun _ => trivial) fun _ => trivial)
  · exact within_require (within_checkedGainIdle (engine nofun _) fun g' =>
      within_readSample _ g' (ptr _) rd (engine nofun _))
  · refine within_require (within_checked fun rate hrate => ?_)
    obtain rfl : r = rate := Except.ok.inj (hr.symm.trans hrate)
    exact (within_pollLoop r _ (ptr _) rd (engine nofun) _).mono (Nat.le_succ _)
  · have clear : ReadAction (.waitForAlert k g) h.addr .clearFlag := ⟨k, g, rfl⟩
    exact within_require (within_checkedGainIdle (engine nofun _) fun g' =>
      (within_alertLoop g' _ _ (ptr _) rd trivial clear (engine nofun _) _).mono (Nat.le_succ _))

/-- Settles O58: the command takes at most one controller step more than there are quiet gaps, and everything it does
keeps `ReadFrame`. -/
theorem readingCommandsFrame : Obligations.ReadingCommandsFrame := by
  intro i s t n h hq hi
  rw [exec_eq_run] at h
  exact (routine_within_of_readsInGaps s.host.holding hi).run_keeps (ReadFrame.keptInQuiet i s) hq h (.refl i s)

end Sys2Proof.Machine
end

section
/-! The decoder and the encoder agree: every well-formed instruction is read back from its bytes, and a byte string that
decodes is the encoding of its instruction. -/

namespace Sys2Proof

/-! ### Bus bytes (R51, R52) -/

@[simp] theorem Strap.ofCode_addressByte (a : Strap) (read : Bool) :
    Strap.ofCode ((addressByte a.addr read).extractLsb' 1 2) = a := by
  cases a <;> cases read <;> rfl

@[simp] theorem addressByte_getElem_zero (a : Strap) (read : Bool) : (addressByte a.addr read)[0] = read := by
  cases a <;> cases read <;> rfl

@[simp] theorem Reg.ofPointerByte_pointerByte (p : Reg) : Reg.ofPointerByte (pointerByte p) = some p := by
  cases p <;> rfl

/-- A byte whose bits 7:3 are `10010` is the address byte of its strap and direction. -/
theorem addressByte_of_extractLsb' : ∀ head : Byte, head.extractLsb' 3 5 = 0b10010#5 →
    addressByte (Strap.ofCode (head.extractLsb' 1 2)).addr (head.getLsbD 0) = head := by
  decide

theorem pointerByte_of_ofPointerByte {b : Byte} {p : Reg} : Reg.ofPointerByte b = some p → pointerByte p = b := by
  have pointer : ∀ (b : Byte) (p : Reg), Reg.ofPointerByte b = some p → pointerByte p = b := by
    intro b p
    cases p <;> revert b <;> decide
  exact pointer b p

theorem decode_addressByte (a : Strap) (read : Bool) (rest : List Byte) :
    decode (addressByte a.addr read :: rest) = decodeFrame (addressByte a.addr read) rest := by
  cases a <;> cases read <;> rfl

/-- A first byte that is no address byte is taken as an opcode. -/
theorem decode_opcode {op : Byte} (h : op.extractLsb' 3 5 ≠ 0b10010#5) (rest : List Byte) :
    decode (op :: rest) = decodeCommand op rest := if_neg h

/-! ### Operand bytes (log entry 5) -/

@[simp] theorem indexFits_toNat (b : Byte) : indexFits b.toNat = true := by simp [indexFits, b.isLt]

@[simp] theorem indexByte_of_toNat (b : Byte) : indexByte b.toNat = b := BitVec.ofNat_toNat ..

@[simp] theorem readBool_boolByte (t : Bool) : readBool (boolByte t) = some t := by cases t <;> rfl

theorem boolByte_of_readBool {b : Byte} {t : Bool} (h : readBool b = some t) : boolByte t = b := by
  unfold readBool at h
  split at h
  · cases h; exact Eq.symm ‹_›
  · split at h <;> cases h
    exact Eq.symm ‹_›

@[simp] theorem wordBytes_joinWord (b1 b0 : Byte) : wordBytes (joinWord b1 b0) = [b1, b0] :=
  congrArg₂ ([·, ·]) BitVec.extractLsb'_append_eq_left BitVec.extractLsb'_append_eq_right

theorem joinF64_bytes (v : F64) :
    joinF64 (v.extractLsb' 56 8) (v.extractLsb' 48 8) (v.extractLsb' 40 8) (v.extractLsb' 32 8)
      (v.extractLsb' 24 8) (v.extractLsb' 16 8) (v.extractLsb' 8 8) (v.extractLsb' 0 8) = v := by
  have join {i j n : Nat} (h : i = j + 8) : v.extractLsb' i n ++ v.extractLsb' j 8 = v.extractLsb' j (n + 8) :=
    BitVec.extractLsb'_append_extractLsb'_eq_extractLsb' h
  unfold joinF64
  rw [join rfl, join rfl, join rfl, join rfl, join rfl, join rfl]
  exact (join rfl).trans BitVec.extractLsb'_eq_self

@[simp] theorem f64Bytes_joinF64 (b7 b6 b5 b4 b3 b2 b1 b0 : Byte) :
    f64Bytes (joinF64 b7 b6 b5 b4 b3 b2 b1 b0) = [b7, b6, b5, b4, b3, b2, b1, b0] := by
  simp (disch := decide) only [f64Bytes, joinF64, BitVec.extractLsb'_append_eq_of_le,
    BitVec.extractLsb'_append_eq_right, BitVec.extractLsb'_eq_self, Nat.reduceSub]

/-- `n.log2` is fuel enough for the digits of `n`. -/
theorem lt_pow_log2 (n : Nat) : n < 128 * 128 ^ n.log2 :=
  calc n < 2 ^ (n.log2 + 1) := Nat.lt_log2_self
    _ = 2 * 2 ^ n.log2 := by rw [pow_succ, mul_comm]
    _ ≤ 128 * 128 ^ n.log2 := Nat.mul_le_mul (by decide) (Nat.pow_le_pow_left (by decide) _)

/-- What has been read as an integer is the integer's digits, of any fuel enough for them, and what was left over; only
a first byte reads as zero. -/
theorem natDigits_of_readNat {bytes left : List Byte} {n : Nat} {first : Bool}
    (h : readNat first bytes = some (n, left)) :
    (first = false → n ≠ 0) ∧ ∀ fuel, n < 128 * 128 ^ fuel → natDigits fuel n ++ left = bytes := by
  induction bytes generalizing first n with
  | nil => cases h
  | cons b rest ih =>
    rw [readNat] at h
    split at h
    next hb =>
      split at h
      · cases h
      next hz =>
        cases h
        refine ⟨fun hf h0 => hz ⟨h0, hf⟩, fun fuel _ => ?_⟩
        cases fuel <;> simp [natDigits, hb]
    next hb =>
      split at h
      · cases h
      next hi _ hr =>
        cases h
        obtain ⟨hne, hdigits⟩ := ih hr
        have hpos : hi ≠ 0 := hne rfl
        have hlt := b.isLt
        refine ⟨fun _ => by omega, fun fuel hf => ?_⟩
        cases fuel with
        | zero => omega
        | succ k =>
          have hdiv : (b.toNat - 128 + 128 * hi) / 128 = hi := by omega
          have hmod : 128 + (b.toNat - 128 + 128 * hi) % 128 = b.toNat := by omega
          rw [natDigits, if_neg (by omega), hdiv, hmod, BitVec.ofNat_toNat, BitVec.setWidth_eq, List.cons_append,
            hdigits k (by rw [pow_succ] at hf; omega)]

theorem natBytes_of_readNat {bytes left : List Byte} {n : Nat} (h : readNat true bytes = some (n, left)) :
    natBytes n ++ left = bytes :=
  (natDigits_of_readNat h).2 _ (lt_pow_log2 n)

/-! ### Decoding an encoding -/

theorem decode_rd (a : Strap) (b1 b0 : Byte) : decode [addressByte a.addr true, b1, b0] = .ok (.rd a) := by
  simp [decode_addressByte, decodeFrame]

theorem decode_ptr (a : Strap) (p : Reg) : decode [addressByte a.addr false, pointerByte p] = .ok (.ptr a p) := by
  simp [decode_addressByte, decodeFrame]

/-- The instruction of a write frame to register `p`. -/
def writeFrame (a : Strap) (v : Word) : Reg → Instr
  | .conversion => .wrConversion a v
  | .config => .wrConfig a v
  | .low => .wrLoThresh a v
  | .high => .wrHiThresh a v

theorem encode_writeFrame (a : Strap) (v : Word) (p : Reg) :
    encode (writeFrame a v p) = addressByte a.addr false :: pointerByte p :: wordBytes v := by
  cases p <;> rfl

theorem decode_write (a : Strap) (v : Word) (p : Reg) : decode (encode (writeFrame a v p)) = .ok (writeFrame a v p) := by
  rw [encode_writeFrame]
  cases p <;> simp [decode_addressByte, decodeFrame, wordBytes, joinWord_bytes, writeFrame]

/-- Settles O1, by running the decoder on the nine strings. -/
theorem writtenOutBytesDecode : Obligations.WrittenOutBytesDecode := by
  unfold Obligations.WrittenOutBytesDecode
  decide

/-- Settles O2: a bus frame is read back by its frame's lemma, and of the host commands those with an operand that
may be rejected, a Bool or an integer, by that operand's; the others have only indices, words and binary64 values. -/
theorem decodeOfEncodeIsTheInstruction : Obligations.DecodeOfEncodeIsTheInstruction := by
  intro i h
  cases i
  case ptr a p => exact decode_ptr a p
  case rd a => exact decode_rd a _ _
  case wrConversion a v => exact decode_write a v .conversion
  case wrConfig a v => exact decode_write a v .config
  case wrLoThresh a v => exact decode_write a v .low
  case wrHiThresh a v => exact decode_write a v .high
  case delay ms =>
    have hms : readNat true (natBytes ms) = some (ms, []) := by simpa using readNat_natBytes ms []
    rw [encode, decode_opcode (by decide)]
    simp [decodeCommand, Opcode.delay, hms]
  case waitForAlert k g =>
    rw [encode, decode_opcode (by decide)]
    simp [decodeCommand, Opcode.waitForAlert, readNat_natBytes, indexByte_toNat h]
  case buildConfig c g m d cm p l q t =>
    simp only [Instr.wf, Bool.and_eq_true] at h
    rw [encode, decode_opcode (by decide)]
    simp [decodeCommand, Opcode.buildConfig, indexByte_toNat, h]
  all_goals
    simp only [Instr.wf, Bool.and_eq_true] at h
    refine congrArg Except.ok ?_
    simp only [indexByte_toNat, joinWord_bytes, joinF64_bytes, h]

/-! ### Encoding what has been decoded -/

theorem encode_of_decodeFrame {head : Byte} {rest : List Byte} {i : Instr} (hh : head.extractLsb' 3 5 = 0b10010#5)
    (h : decodeFrame head rest = .ok i) : i.wf = true ∧
      ((∃ a b1 b0, i = .rd a ∧ head :: rest = [addressByte a.addr true, b1, b0]) ∨ encode i = head :: rest) := by
  have haddr := addressByte_of_extractLsb' head hh
  unfold decodeFrame at h
  split at h
  next hread =>
    split at h <;> cases h
    rw [hread] at haddr
    exact ⟨rfl, .inl ⟨_, _, _, rfl, by rw [haddr]⟩⟩
  next hwrite =>
    rw [Bool.not_eq_true] at hwrite
    rw [hwrite] at haddr
    split at h
    · split at h <;> cases h
      exact ⟨rfl, .inr (by rw [encode, haddr, pointerByte_of_ofPointerByte ‹_›])⟩
    · split at h <;> cases h
      all_goals exact ⟨rfl, .inr (by rw [encode, haddr, pointerByte_of_ofPointerByte ‹_›, wordBytes_joinWord])⟩
    · cases h

/-- The branches are those of `decodeCommand`, in its order: of the 21 opcodes, three have an operand that may be
rejected, the Bool of `buildConfig` and the integers of `delay` and `waitForAlert`; the others have only indices, words
and binary64 values. -/
theorem encode_of_decodeCommand {op : Byte} {rest : List Byte} {i : Instr} (h : decodeCommand op rest = .ok i) :
    i.wf = true ∧ encode i = op :: rest := by
  unfold decodeCommand at h
  split at h
  case h_5 hop => -- buildConfig
    split at h
    · split at h <;> cases h
      refine ⟨by simp [Instr.wf], congrArg₂ List.cons (BitVec.eq_of_toNat_eq hop.symm) ?_⟩
      simp [boolByte_of_readBool ‹_›]
    · cases h
  case h_13 hop => -- delay
    split at h <;> cases h
    refine ⟨rfl, congrArg₂ List.cons (BitVec.eq_of_toNat_eq hop.symm) ?_⟩
    exact (List.append_nil _).symm.trans (natBytes_of_readNat ‹_›)
  case h_21 hop => -- waitForAlert
    split at h <;> cases h
    refine ⟨by simp [Instr.wf], congrArg₂ List.cons (BitVec.eq_of_toNat_eq hop.symm) ?_⟩
    simpa using natBytes_of_readNat ‹_›
  case h_22 => cases h -- an unassigned opcode
  all_goals
    rename_i hop
    split at h <;> cases h
    exact ⟨by simp [Instr.wf], congrArg₂ List.cons (BitVec.eq_of_toNat_eq hop.symm) (by simp)⟩

/-- Settles O3: `decode` reads a bus frame after an address byte and a host command after any other first byte. -/
theorem encodeOfDecodeIsTheBytes : Obligations.EncodeOfDecodeIsTheBytes := by
  intro bytes i h
  cases bytes with
  | nil => cases h
  | cons head rest =>
    rw [decode] at h
    split at h
    next hh => exact encode_of_decodeFrame hh h
    next => exact (encode_of_decodeCommand h).imp_right .inr

end Sys2Proof
end

section
/-! The host's program, step by step: what issuing a command does, and where the program ends. -/

namespace Sys2Proof.Machine

/-! ### The host (R36, R68) -/

theorem HostAgent.next_of_pending {h : HostAgent} {b : List Byte} {rest : List (List Byte)} (hs : h.status = none)
    (hp : h.pending = b :: rest) : h.next = some b := by
  simp [HostAgent.next, hs, hp]

theorem HostAgent.next_of_ended {h : HostAgent} (hs : h.status ≠ none ∨ h.pending = []) : h.next = none := by
  unfold HostAgent.next
  split
  · rfl
  next hn => simp [hs.resolve_left (not_not_intro hn)]

theorem HostAgent.advance_of_holding {h : HostAgent} (hh : h.holding = true) : h.advance = h := if_pos hh

theorem HostAgent.advance_of_returned {h : HostAgent} (hh : h.holding = false) : h.advance =
    { h with pending := h.pending.tail, index := h.index + 1, status := endStatus h.lastStatus h.pending.tail } :=
  if_neg (by simp [hh])

theorem HostAgent.lastStatus_of_report {h : HostAgent} {r : Report} (hr : h.report = some r) :
    h.lastStatus = r.answer.status := by
  simp [HostAgent.lastStatus, hr]

/-- Settles O5: the three branches of `endStatus`. -/
theorem programEndsAtFirstFailure : Obligations.ProgramEndsAtFirstFailure := by
  intro h b rest r hh hs hp hr
  have hadvance := HostAgent.advance_of_returned hh
  rw [HostAgent.lastStatus_of_report hr, hp, List.tail_cons] at hadvance
  have ended {n : Nat} (he : endStatus r.answer.status rest = some n) :
      h.advance.status = some n ∧ h.advance.next = none := by
    have hstatus : h.advance.status = some n := by rw [hadvance, ← he]
    exact ⟨hstatus, HostAgent.next_of_ended (.inl (by simp [hstatus]))⟩
  refine ⟨fun hne => ended (if_pos hne), fun h0 hl => ended (by simp [endStatus, h0, hl]), ?_⟩
  rintro b' rest' h0 rfl
  have hstatus : h.advance.status = none := by simp [hadvance, endStatus, h0]
  exact ⟨hstatus, HostAgent.next_of_pending hstatus (by rw [hadvance])⟩

/-! ### The step -/

theorem step_of_decoded {s : State} {bytes : List Byte} {i : Instr} (hn : s.gap.host.next = some bytes)
    (hd : decode bytes = .ok i) : step s = returned s.others (exec i s.gap) := by
  simp only [step, hn, hd]

theorem step_of_undecodable {s : State} {bytes : List Byte} {e : DecodeError} (hn : s.gap.host.next = some bytes)
    (hd : decode bytes = .error e) : step s = .refused (.undecodable e) := by
  simp only [step, hn, hd]

theorem step_of_idle {s : State} (hn : s.gap.host.next = none) : step s = State.seal s.others s.gap := by
  simp only [step, hn]

theorem State.seal_of_none_refused {t : State} (before : List Session) (h : ∀ p ∈ t.others, p.refused = none) :
    State.seal before t = .next t := by
  have hr : t.refusal = none := List.findSome?_eq_none_iff.mpr h
  cases before <;> simp [State.seal, hr]

theorem State.seal_of_refused {t : State} {before : List Session} (hb : before.length = t.others.length)
    (h : ∃ p ∈ t.others, p.refused ≠ none) : ∃ r, State.seal before t = .refused r := by
  obtain ⟨p, hp, hne⟩ := h
  cases hr : t.refusal with
  | none => exact absurd (List.findSome?_eq_none_iff.mp hr p hp) hne
  | some r =>
    cases before with
    | nil => exact absurd hp (by simp [List.eq_nil_of_length_eq_zero hb.symm])
    | cons => exact ⟨r, by simp [State.seal, hr]⟩

/-- A command that answers a next state leaves the host's program, its position and the number of other sessions as they
were before the gap. -/
theorem SameProgram.of_exec_gap {s t : State} {i : Instr} (h : exec i s.gap = .next t) : SameProgram s t :=
  exec_keeps (SameProgram.keptByRun s) h ((SameProgram.keptByRun s).gap s ⟨rfl, rfl, rfl, rfl⟩)

/-- Settles O4: the branches of `step`, with what a command leaves of its host's program. -/
theorem stepRunsTheIssuedCommand : Obligations.StepRunsTheIssuedCommand := by
  rintro s _ rfl
  refine ⟨?runs, ?refused, ?undecodable, ?idle⟩
  case runs =>
    intro bytes rest i t hs hp hd hx
    obtain ⟨hpending, hindex, -, hlen⟩ := SameProgram.of_exec_gap hx
    have hstep : step s = State.seal s.others { t with host := t.host.advance } := by
      rw [step_of_decoded (HostAgent.next_of_pending hs hp) hd, hx, returned]
    rw [hstep]
    refine ⟨fun h => State.seal_of_none_refused _ h, fun h => State.seal_of_refused hlen.symm h, fun hh => ?_,
      HostAgent.advance_of_holding⟩
    rw [HostAgent.advance_of_returned hh]
    exact ⟨by rw [hpending, ← State.gap_host, hp, List.tail_cons], congrArg (· + 1) hindex, rfl⟩
  case refused =>
    intro bytes rest i r hs hp hd hx
    rw [step_of_decoded (HostAgent.next_of_pending hs hp) hd, hx, returned]
  case undecodable => exact fun _ _ _ hs hp hd => step_of_undecodable (HostAgent.next_of_pending hs hp) hd
  case idle => exact fun hn ho => (step_of_idle (HostAgent.next_of_ended hn)).trans (State.seal_of_none_refused _ ho)

end Sys2Proof.Machine
end

section
/-! The operands of the commands: each check at the command boundary, the Config word and its fields, and the ConfigError
of an index outside its domain. -/

namespace Sys2Proof

/-! ### Code tables (R56, R57, R61) -/

@[simp] theorem Channel.code_ofCode : ∀ c : BitVec 3, (Channel.ofCode c).code = c := by decide

theorem Gain.code_ofCode :
    ∀ c : BitVec 3, (Gain.ofCode c).code = if c.toNat < 5 then c else 0b101#3 := by decide

/-- The six legal gain indices are the codes of their gains. -/
theorem Gain.code_ofNat : ∀ g < 6, (Gain.ofCode (BitVec.ofNat 3 g)).code = BitVec.ofNat 3 g := by decide

@[simp] theorem Queue.code_ofCode : ∀ c : BitVec 2, (Queue.ofCode c).code = c := by decide

/-- The channels listed in the order of their codes. -/
theorem channels_getElem?_eq_ofCode : ∀ c : BitVec 3,
    [Channel.ain0Ain1, .ain0Ain3, .ain1Ain3, .ain2Ain3, .ain0Gnd, .ain1Gnd, .ain2Gnd, .ain3Gnd][c.toNat]?
      = some (Channel.ofCode c) := by
  decide

/-- The inputs of the channels, listed in the order of the channels' codes. -/
theorem pins_getElem?_eq_ofCode : ∀ c : BitVec 3,
    [(Pin.ain0, Pin.ain1), (.ain0, .ain3), (.ain1, .ain3), (.ain2, .ain3), (.ain0, .gnd), (.ain1, .gnd), (.ain2, .gnd),
      (.ain3, .gnd)][c.toNat]? = some (Channel.ofCode c).pins := by
  decide

/-- The gains listed in the order of their codes; the last three codes are all FS_0_256. -/
theorem gains_getElem?_eq_ofCode : ∀ c : BitVec 3,
    [Gain.fs6144, .fs4096, .fs2048, .fs1024, .fs0512, .fs0256, .fs0256, .fs0256][c.toNat]? = some (Gain.ofCode c) := by
  decide

theorem rates_getElem?_eq_ofCode (c : BitVec 3) :
    [DataRate.sps8, .sps16, .sps32, .sps64, .sps128, .sps250, .sps475, .sps860][c.toNat]? = some (DataRate.ofCode c) :=
  (Machine.checkDataRate_eq_ok_iff_getElem? ..).mp (Machine.checkDataRate_eq_ok.mpr ⟨c.isLt, by simp⟩)

/-- The queue settings listed in the order of their codes. -/
theorem queues_getElem?_eq_ofCode : ∀ c : BitVec 2,
    [Queue.one, .two, .four, .disabled][c.toNat]? = some (Queue.ofCode c) := by
  decide

end Sys2Proof

namespace Sys2Proof.Machine

/-! ### The Config word (R55) -/

theorem getLsbD_append_of_le {n k i : Nat} (x : BitVec n) (y : BitVec k) (h : k ≤ i) :
    (x ++ y).getLsbD i = x.getLsbD (i - k) := by
  rw [BitVec.getLsbD_append, if_neg (Nat.not_lt.mpr h)]

theorem getLsbD_append_ofBool {n : Nat} (x : BitVec n) (t : Bool) : (x ++ BitVec.ofBool t).getLsbD 0 = t := by
  rw [BitVec.getLsbD_append, if_pos Nat.one_pos]
  exact BitVec.getLsbD_ofBool ..

/-- Each field of a built word stands in its bits. -/
theorem buildWord_fields (f : ConfigFields) :
    (buildWord f).getLsbD 15 = f.trigger ∧ (buildWord f).extractLsb' 12 3 = f.channel.code ∧
    (buildWord f).extractLsb' 9 3 = f.gain.code ∧ (buildWord f).getLsbD 8 = f.mode.code ∧
    (buildWord f).extractLsb' 5 3 = f.dataRate.code ∧ (buildWord f).getLsbD 4 = f.compareMode.code ∧
    (buildWord f).getLsbD 3 = f.polarity.code ∧ (buildWord f).getLsbD 2 = f.latch.code ∧
    (buildWord f).extractLsb' 0 2 = f.queue.code := by
  have trigger : (BitVec.ofBool f.trigger).getLsbD 0 = f.trigger := BitVec.getLsbD_ofBool ..
  simp (disch := decide) only [buildWord, getLsbD_append_of_le, getLsbD_append_ofBool, trigger,
    BitVec.extractLsb'_append_eq_of_le, BitVec.extractLsb'_append_eq_right, Nat.reduceSub, and_self]

/-- Settles O21. -/
theorem decodeConfigReadsTheFields : Obligations.DecodeConfigReadsTheFields := by
  intro s w
  have ifField {α : Type} {a b : α} (hab : b ≠ a) (t : Bool) : (if t then a else b) = a ↔ t = true := by
    cases t <;> simp [hab]
  exact ⟨fieldsOf w, rfl, rfl, Channel.code_ofCode _, channels_getElem?_eq_ofCode _, pins_getElem?_eq_ofCode _,
    gains_getElem?_eq_ofCode _, rates_getElem?_eq_ofCode _, Gain.code_ofCode _, ifField (by decide) _,
    DataRate.code_ofCode _, ifField (by decide) _, ifField (by decide) _, ifField (by decide) _, Queue.code_ofCode _,
    queues_getElem?_eq_ofCode _⟩

/-! ### The checks at the command boundary (R66, R140) -/

/-- A check of an operand at the command boundary: where the operand is `bad` it names it as `what`, otherwise it gives a
value that meets `P`. -/
structure Checks {α : Type} (check : Except Culprit α) (bad : Bool) (what : Culprit) (P : α → Prop) : Prop where
  error : bad = true → check = .error what
  ok    : bad = false → ∃ x, check = .ok x ∧ P x

/-- A check of an index below a bound. -/
theorem checks_of_bound {α : Type} {n k : Nat} {what : Culprit} {x : α} {P : α → Prop} (hP : n < k → P x) :
    Checks (orCulprit what (if n < k then some x else none)) (k ≤ n) what P where
  error h := by rw [if_neg (Nat.not_lt.mpr (of_decide_eq_true h)), orCulprit]
  ok h := by
    have hn : n < k := Nat.not_le.mp (of_decide_eq_false h)
    exact ⟨x, by rw [if_pos hn, orCulprit], hP hn⟩

/-- A check of the index of a field of one bit. -/
theorem checks_of_two {α : Type} (check : Nat → Except Culprit α) (code : α → Bool) {what : Culprit} {x y : α}
    (h0 : check 0 = .ok x) (h1 : check 1 = .ok y) (h2 : ∀ n, check (n + 2) = .error what) (hx : code x = false)
    (hy : code y = true) (n : Nat) : Checks (check n) (2 ≤ n) what (code · = decide (n = 1)) := by
  match n with
  | 0 => exact ⟨nofun, fun _ => ⟨x, h0, hx⟩⟩
  | 1 => exact ⟨nofun, fun _ => ⟨y, h1, hy⟩⟩
  | n + 2 => exact ⟨fun _ => h2 n, fun h => absurd (Nat.le_add_left 2 n) (of_decide_eq_false h)⟩

theorem checkChannel_checks (c : Nat) : Checks (checkChannel c) (8 ≤ c) .channel (·.code = BitVec.ofNat 3 c) :=
  checks_of_bound fun _ => Channel.code_ofCode _

theorem checkGain_checks (g : Nat) : Checks (checkGain g) (6 ≤ g) .gain (·.code = BitVec.ofNat 3 g) :=
  checks_of_bound (Gain.code_ofNat g)

theorem checkMode_checks (m : Nat) : Checks (checkMode m) (2 ≤ m) .mode (·.code = decide (m = 1)) :=
  checks_of_two checkMode Mode.code rfl rfl (fun _ => rfl) rfl rfl m

theorem checkDataRate_checks (r : Nat) : Checks (checkDataRate r) (8 ≤ r) .dataRate (·.code = BitVec.ofNat 3 r) :=
  checks_of_bound fun _ => DataRate.code_ofCode _

theorem checkCompareMode_checks (m : Nat) :
    Checks (checkCompareMode m) (2 ≤ m) .compareMode (·.code = decide (m = 1)) :=
  checks_of_two checkCompareMode CompareMode.code rfl rfl (fun _ => rfl) rfl rfl m

theorem checkPolarity_checks (p : Nat) : Checks (checkPolarity p) (2 ≤ p) .polarity (·.code = decide (p = 1)) :=
  checks_of_two checkPolarity Polarity.code rfl rfl (fun _ => rfl) rfl rfl p

theorem checkLatch_checks (l : Nat) : Checks (checkLatch l) (2 ≤ l) .latch (·.code = decide (l = 1)) :=
  checks_of_two checkLatch Latch.code rfl rfl (fun _ => rfl) rfl rfl l

/-- The COMP_QUE code of a legal queue depth (R61, R87). -/
def IsDepthCode (q : Nat) (x : Queue) : Prop :=
  (q = 1 → x.code = 0b00#2) ∧ (q = 2 → x.code = 0b01#2) ∧ (q = 4 → x.code = 0b10#2) ∧ (q = 0 → x.code = 0b11#2)

theorem checkDepth_checks (q : Nat) : Checks (checkDepth q) (q ∉ [1, 2, 4]) .queueDepth (IsDepthCode q) := by
  match q with
  | 1 | 2 | 4 => exact ⟨nofun, fun _ => ⟨_, rfl, by simp [IsDepthCode, Queue.code]⟩⟩
  | 0 | 3 => exact ⟨fun _ => rfl, nofun⟩
  | n + 5 => exact ⟨fun _ => rfl, fun h => by simp at h⟩

theorem checkDepthOrDisabled_checks (q : Nat) :
    Checks (checkDepthOrDisabled q) (q ∉ [0, 1, 2, 4]) .queueDepth (IsDepthCode q) := by
  match q with
  | 0 => exact ⟨nofun, fun _ => ⟨_, rfl, by simp [IsDepthCode, Queue.code]⟩⟩
  | n + 1 => simpa [checkDepthOrDisabled] using checkDepth_checks (n + 1)

/-! ### Operands checked in order (R143) -/

theorem firstBad_cons (bad : Bool) (c : Culprit) (rest : List (Bool × Culprit)) :
    firstBad ((bad, c) :: rest) = if bad then some c else firstBad rest := by
  cases bad <;> rfl

/-- Checks in sequence: `check` names the first of the operands that is bad. -/
def NamesFirst {α : Type} (check : Except Culprit α) (operands : List (Bool × Culprit)) : Prop :=
  ∀ what, firstBad operands = some what → check = .error what

theorem namesFirst_nil {α : Type} (check : Except Culprit α) : NamesFirst check [] := nofun

theorem Checks.namesFirst_bind {α β : Type} {check : Except Culprit α} {bad : Bool} {c : Culprit} {P : α → Prop}
    {next : α → Except Culprit β} {rest : List (Bool × Culprit)} (h : Checks check bad c P)
    (hn : ∀ x, NamesFirst (next x) rest) : NamesFirst (check >>= next) ((bad, c) :: rest) := by
  intro what hw
  rw [firstBad_cons] at hw
  cases bad with
  | true =>
    cases hw
    rw [h.error rfl]
    rfl
  | false =>
    obtain ⟨x, hx, -⟩ := h.ok rfl
    rw [hx]
    exact hn x what hw

theorem checkFields_namesFirst (c g m r cm p l q : Nat) (t : Bool) :
    NamesFirst (checkFields c g m r cm p l q t)
      [(8 ≤ c, .channel), (6 ≤ g, .gain), (2 ≤ m, .mode), (8 ≤ r, .dataRate), (2 ≤ cm, .compareMode),
        (2 ≤ p, .polarity), (2 ≤ l, .latch), (q ∉ [0, 1, 2, 4], .queueDepth)] :=
  (checkChannel_checks c).namesFirst_bind fun _ => (checkGain_checks g).namesFirst_bind fun _ =>
  (checkMode_checks m).namesFirst_bind fun _ => (checkDataRate_checks r).namesFirst_bind fun _ =>
  (checkCompareMode_checks cm).namesFirst_bind fun _ => (checkPolarity_checks p).namesFirst_bind fun _ =>
  (checkLatch_checks l).namesFirst_bind fun _ => (checkDepthOrDisabled_checks q).namesFirst_bind fun _ =>
  namesFirst_nil _

theorem checkCompareArgs_namesFirst (c g cm p l q : Nat) :
    NamesFirst (checkCompareArgs c g cm p l q)
      [(8 ≤ c, .channel), (6 ≤ g, .gain), (2 ≤ cm, .compareMode), (2 ≤ p, .polarity), (2 ≤ l, .latch),
        (q ∉ [1, 2, 4], .queueDepth)] :=
  (checkChannel_checks c).namesFirst_bind fun _ => (checkGain_checks g).namesFirst_bind fun _ =>
  (checkCompareMode_checks cm).namesFirst_bind fun _ => (checkPolarity_checks p).namesFirst_bind fun _ =>
  (checkLatch_checks l).namesFirst_bind fun _ => (checkDepth_checks q).namesFirst_bind fun _ => namesFirst_nil _

theorem checkChannelGain_namesFirst (c g : Nat) :
    NamesFirst (checkChannelGain c g) [(8 ≤ c, .channel), (6 ≤ g, .gain)] :=
  (checkChannel_checks c).namesFirst_bind fun _ => (checkGain_checks g).namesFirst_bind fun _ => namesFirst_nil _

theorem checkChannelGainRate_namesFirst (c g r : Nat) :
    NamesFirst (checkChannelGainRate c g r) [(8 ≤ c, .channel), (6 ≤ g, .gain), (8 ≤ r, .dataRate)] :=
  (checkChannel_checks c).namesFirst_bind fun _ => (checkGain_checks g).namesFirst_bind fun _ =>
  (checkDataRate_checks r).namesFirst_bind fun _ => namesFirst_nil _

/-- The comparator operands come before the voltages and their order (R130). -/
theorem checkArm_error {c g cm p l q : Nat} {what : Culprit} (h : checkCompareArgs c g cm p l q = .error what)
    (lo hi : F64) : checkArm c g cm p l q lo hi = .error what := by
  rw [checkArm, h]
  rfl

theorem checkVoltsAndGain_error {g : Nat} {what : Culprit} (h : checkGain g = .error what) (v : F64) :
    checkVoltsAndGain v g = .error what := by
  rw [checkVoltsAndGain, h]
  rfl

theorem checkAddress_error {n : Nat} (h : 4 ≤ n) : orCulprit .address (Strap.ofIndex n) = .error .address := by
  obtain ⟨k, rfl⟩ := Nat.exists_eq_add_of_le' h
  rfl

theorem Reg.ofIndex_eq_none {n : Nat} (h : 4 ≤ n) : Reg.ofIndex n = none := by
  obtain ⟨k, rfl⟩ := Nat.exists_eq_add_of_le' h
  rfl

theorem checkReadable_error {n : Nat} (h : 4 ≤ n) : orCulprit .regId (Reg.ofIndex n) = .error .regId := by
  rw [Reg.ofIndex_eq_none h, orCulprit]

theorem checkWritable_error {n : Nat} (h : 4 ≤ n) : checkWritable n = .error .regId := by
  rw [checkWritable, Reg.ofIndex_eq_none h]

/-! ### Commands whose operands pass -/

/-- Legal operands pass, and each field has its operand's code (R55 to R61, R87). -/
theorem checkFields_ok {c g m r cm p l q : Nat} (hc : c < 8) (hg : g < 6) (hm : m < 2) (hr : r < 8) (hcm : cm < 2)
    (hp : p < 2) (hl : l < 2) (hq : q ∈ [0, 1, 2, 4]) (t : Bool) :
    ∃ f, checkFields c g m r cm p l q t = .ok f ∧ f.trigger = t ∧ f.channel.code = BitVec.ofNat 3 c ∧
      f.gain.code = BitVec.ofNat 3 g ∧ f.mode.code = decide (m = 1) ∧ f.dataRate.code = BitVec.ofNat 3 r ∧
      f.compareMode.code = decide (cm = 1) ∧ f.polarity.code = decide (p = 1) ∧ f.latch.code = decide (l = 1) ∧
      IsDepthCode q f.queue := by
  have good {n k : Nat} (h : n < k) : decide (k ≤ n) = false := decide_eq_false (Nat.not_le.mpr h)
  obtain ⟨channel, ec, hchannel⟩ := (checkChannel_checks c).ok (good hc)
  obtain ⟨gain, eg, hgain⟩ := (checkGain_checks g).ok (good hg)
  obtain ⟨mode, em, hmode⟩ := (checkMode_checks m).ok (good hm)
  obtain ⟨dataRate, er, hrate⟩ := (checkDataRate_checks r).ok (good hr)
  obtain ⟨compareMode, ecm, hcompareMode⟩ := (checkCompareMode_checks cm).ok (good hcm)
  obtain ⟨polarity, ep, hpolarity⟩ := (checkPolarity_checks p).ok (good hp)
  obtain ⟨latch, el, hlatch⟩ := (checkLatch_checks l).ok (good hl)
  obtain ⟨queue, eq, hqueue⟩ := (checkDepthOrDisabled_checks q).ok (decide_eq_false (not_not_intro hq))
  refine ⟨{ trigger := t, channel, gain, mode, dataRate, compareMode, polarity, latch, queue }, ?_, rfl, hchannel, hgain,
    hmode, hrate, hcompareMode, hpolarity, hlatch, hqueue⟩
  rw [checkFields, ec, eg, em, er, ecm, ep, el, eq]
  rfl

theorem exec_buildConfig_of_ok {c g m r cm p l q : Nat} {t : Bool} {f : ConfigFields}
    (h : checkFields c g m r cm p l q t = .ok f) (s : State) :
    exec (.buildConfig c g m r cm p l q t) s = .next (s.succeed 0x20#8 (.word (buildWord f))) := by
  rw [exec_eq_run, routine, buildConfigRoutine, h]
  rfl

/-- Settles O20: the checks give each field its operand's code, and `buildWord` puts each code in its bits. -/
theorem buildConfigPacksTheFields : Obligations.BuildConfigPacksTheFields := by
  intro s c g m r cm p l q t hc hg hm hr hcm hp hl hq
  obtain ⟨f, hf, htrigger, hchannel, hgain, hmode, hrate, hcompareMode, hpolarity, hlatch, hqueue⟩ :=
    checkFields_ok hc hg hm hr hcm hp hl (by simpa using hq) t
  obtain ⟨h15, h12, h9, h8, h5, h4, h3, h2, h0⟩ := buildWord_fields f
  exact ⟨buildWord f, exec_buildConfig_of_ok hf s, h15.trans htrigger, h12.trans hchannel, h9.trans hgain,
    h8.trans hmode, h5.trans hrate, h4.trans hcompareMode, h3.trans hpolarity, h2.trans hlatch, h0 ▸ hqueue⟩

/-! ### Commands whose operands do not pass (R140) -/

theorem run_require {c : Bool} (h : c = true) (r : Refusal) (body : Routine) (begun : Bool) (s : State) :
    (require c r body).run begun s = body.run begun s := by
  rw [require, if_pos h]

theorem run_checked_error {α : Type} {check : Except Culprit α} {what : Culprit} (h : check = .error what) (op : Byte)
    (body : α → Routine) (begun : Bool) (s : State) :
    (checked op check body).run begun s = .next (s.raise op (.config what)) := by
  rw [h]
  rfl

theorem run_checkedGainIdle_error {g : Nat} {what : Culprit} (h : checkGain g = .error what) (op : Byte)
    (body : Gain → Routine) (begun : Bool) (s : State) :
    (checkedGainIdle op g body).run begun s = .next ((s.setEngine .idle).raise op (.config what)) := by
  rw [checkedGainIdle, h]
  rfl

/-- Settles O60: the check of a command's operands names the first bad one, and the command raises it before anything
else; the two that R108 leaves Idle set the engine with it. -/
theorem outOfRangeIndexIsAConfigError : Obligations.OutOfRangeIndexIsAConfigError := by
  intro s c g m r cm p l q t lo hi what
  have badGain (h : 6 ≤ g) : checkGain g = .error .gain := (checkGain_checks g).error (decide_eq_true h)
  refine ⟨?fields, ?address, ?scaler, ?register, ?engine, ?poll⟩
  case fields => exact fun h => run_checked_error (checkFields_namesFirst c g m r cm p l q t what h) ..
  case address => exact fun h => run_checked_error (checkAddress_error h) ..
  case scaler =>
    exact fun h => ⟨fun _ => run_checked_error (badGain h) ..,
      run_checked_error (checkVoltsAndGain_error (badGain h) lo) ..⟩
  case register =>
    exact fun hl h => ⟨(run_require hl ..).trans (run_checked_error (checkReadable_error h) ..),
      fun _ => (run_require hl ..).trans (run_checked_error (checkWritable_error h) ..)⟩
  case engine =>
    intro hl he
    have hfree : (s.handle.live && s.handle.engine.free) = true := by
      rcases he with he | he <;> simp [hl, he, Engine.free]
    refine ⟨fun h => ?_, fun h => ⟨?_, fun k => ?_⟩, fun h => ?_, fun h => ⟨?_, ?_⟩⟩ <;>
      refine (run_require hfree ..).trans ?_
    · exact run_checked_error (checkChannelGain_namesFirst c g what h) ..
    · exact run_checkedGainIdle_error (badGain h) ..
    · exact run_checkedGainIdle_error (badGain h) ..
    · exact run_checked_error (checkChannelGainRate_namesFirst c g r what h) ..
    · exact run_checked_error (checkCompareArgs_namesFirst c g cm p l q what h) ..
    · exact run_checked_error (checkArm_error (checkCompareArgs_namesFirst c g cm p l q what h) lo hi) ..
  case poll =>
    intro hl he h
    exact (run_require (by simp [hl, he]) ..).trans
      (run_checked_error ((checkDataRate_checks r).error (decide_eq_true h)) ..)

end Sys2Proof.Machine
end

section
/-! Register access: the raw frames, `readRegister` and `writeRegister`, and what the writing commands leave
unchanged. -/

namespace Sys2Proof.Machine

/-! ### Devices changed at one address -/

/-- No device but the one at bus address `x` has changed, and every device is related by `K` to what it has become. -/
def Devices.ChangedAt (x : Addr) (K : Device → Device → Prop) (ds ds' : Devices) : Prop :=
  (∀ b, b.addr ≠ x → ds'.get b = ds.get b) ∧
  ∀ b d, ds.get b = some d → ∃ d', ds'.get b = some d' ∧ K d d'

theorem Devices.ChangedAt.refl (x : Addr) {K : Device → Device → Prop} (hK : ∀ d, K d d) (ds : Devices) :
    Devices.ChangedAt x K ds ds :=
  ⟨fun _ _ => rfl, fun _ d hd => ⟨d, hd, hK d⟩⟩

section

variable {x : Addr} {K : Device → Device → Prop} {ds ds' : Devices} (h : Devices.ChangedAt x K ds ds') {f : Frame}
  (hf : f.addr = x) (hK : ∀ d d', K d d' → K d (d'.deliver f))
include h hf hK

theorem Devices.ChangedAt.deliver : Devices.ChangedAt x K ds (ds'.deliver f) := by
  obtain ⟨hother, hown⟩ := h
  subst hf
  refine ⟨fun b hb => ?_, fun b d hd => ?_⟩
  · rw [Devices.deliver_other hb.symm, hother b hb]
  · obtain ⟨d', hd', hk⟩ := hown b d hd
    by_cases hb : f.addr = b.addr
    · exact ⟨d'.deliver f, by simp [Devices.deliver_of_get hb hd'], hK d d' hk⟩
    · exact ⟨d', by rw [Devices.deliver_other hb, hd'], hk⟩

/-- A frame changes the device it addresses by its full effect or not at all (R73, R74). -/
theorem Devices.ChangedAt.busTx (w : Draws) : Devices.ChangedAt x K ds (Machine.busTx ds' f w).2 := by
  obtain ⟨d, -, hb⟩ | ⟨how, took, hb⟩ := busTx_cases ds' f w <;> rw [hb]
  · exact h.deliver hf hK
  · cases took
    · exact h
    · exact h.deliver hf hK

end

/-! ### Raw frames -/

theorem Strap.addr_inj {a b : Strap} : a.addr = b.addr ↔ a = b :=
  ⟨fun h => Option.some.inj ((ofAddr_addr a).symm.trans (h ▸ ofAddr_addr b)), congrArg _⟩

/-- One frame of the running session, whatever the draws `w` it takes. -/
theorem State.perform_tx (s : State) (f : Frame) : ∃ w e, s.perform (.tx f) = (.bus (busTx s.devices f w).1, { s with
    devices := (busTx s.devices f w).2
    env := e
    wire := transferOf .controller f (busTx s.devices f w).1 :: s.wire }) :=
  ⟨_, _, rfl⟩

/-- A raw frame is one controller step, and its report is the bus's answer. -/
theorem run_rawFrame (f : Frame) (s : State) : (rawFrame f).run false s =
    .next ((s.perform (.tx f)).2.answer none (rawAnswer f (s.perform (.tx f)).1.outcome)) := rfl

theorem run_rawFrame_ack {s : State} {a : Strap} {d : Device} {f : Frame} (hf : f.addr = a.addr)
    (hd : s.devices.get a = some d) (hb : s.env.acks 1) (ho : readsFreeOs s.devices f = false) :
    (rawFrame f).run false s = .next ((s.served a (d.deliver f) 1 0 [sentAck f (d.reply false f)]).answer none
      (rawAnswer f (.ok (d.reply false f)))) := by
  obtain ⟨fs, hb⟩ := hb
  rw [run_rawFrame, State.perform_tx_ack hf hd hb ho]
  simp [State.served, Env.after, hb, Reply.outcome]

theorem run_rawFrame_fail {s : State} {a : Strap} {d : Device} {f : Frame} {ans : BusAnswer} {fs : List BusAnswer}
    {how : BusFailure} {took : Bool} (hf : f.addr = a.addr) (hd : s.devices.get a = some d)
    (hb : s.env.frames = ans :: fs) (h : FailsAs ans how took) :
    (rawFrame f).run false s = .next ((s.served a (if took then d.deliver f else d) 1 0 [sentFail f how]).answer none
      (.frameFailed how)) := by
  have hset : (if took = true then s.devices.set a (some (d.deliver f)) else s.devices) =
      s.devices.set a (some (if took = true then d.deliver f else d)) := by
    cases took
    · simp [← hd]
    · rfl
  rw [run_rawFrame, State.perform_tx_fail hf hd hb h, hset]
  simp [State.served, Env.after, hb, Reply.outcome, rawAnswer]

/-- Settles O11. -/
theorem rawPointerAndThresholdFramesTakeEffect : Obligations.RawPointerAndThresholdFramesTakeEffect :=
  fun _ _ _ hd hb => ⟨fun _ => run_rawFrame_ack rfl hd hb rfl, fun _ => run_rawFrame_ack rfl hd hb rfl,
    fun _ => run_rawFrame_ack rfl hd hb rfl⟩

/-- Settles O15: each of the five instructions is `rawFrame` of its frame. -/
theorem failedFrameTakesAllOrNothing : Obligations.FailedFrameTakesAllOrNothing := by
  intro s a d i f ans how took answers hd hb hfail hi
  obtain ⟨p, rfl, rfl⟩ | ⟨v, rfl, rfl⟩ | ⟨v, rfl, rfl⟩ | ⟨v, rfl, rfl⟩ | ⟨rfl, rfl⟩ := hi <;>
    exact run_rawFrame_fail rfl hd hb hfail

/-- Settles O16: a raw frame is one `busTx`, which changes no device but the one addressed and fails where there is
none. -/
theorem rawFramesReachOneDevice : Obligations.RawFramesReachOneDevice := by
  intro s t a i hi h
  obtain ⟨f, hf, hrun⟩ : ∃ f : Frame, f.addr = a.addr ∧ exec i s = (rawFrame f).run false s := by
    obtain ⟨p, rfl⟩ | ⟨v, rfl⟩ | ⟨v, rfl⟩ | ⟨v, rfl⟩ | rfl := hi <;> exact ⟨_, rfl, rfl⟩
  obtain ⟨w, e, hperform⟩ := s.perform_tx f
  rw [hrun, run_rawFrame, hperform] at h
  cases h
  obtain ⟨hother, -⟩ : Devices.ChangedAt a.addr (fun _ _ => True) s.devices (busTx s.devices f w).2 :=
    (Devices.ChangedAt.refl _ (fun _ => trivial) _).busTx hf (fun _ _ _ => trivial) w
  refine ⟨fun b hb => hother b (mt Strap.addr_inj.mp hb), rfl, rfl, rfl, fun hn => ?_⟩
  have hbus : busTx s.devices f w = (.error (unheard w.bus), s.devices) := by simp [busTx, hf, hn]
  simp [hbus, rawAnswer, Reply.outcome]

/-- Settles O14: the routine of WR_CONVERSION refuses, and `checkWritable` stops `writeRegister 0` before its frame. -/
theorem conversionCannotBeWritten : Obligations.ConversionCannotBeWritten :=
  ⟨fun _ _ _ => rfl, fun _ _ hl => (run_require hl ..).trans (run_checked_error rfl ..)⟩

/-! ### `readRegister` (R79, R82) -/

/-- An acknowledged read of the running session, where `os` is the draw CONT_OS_READ and `e` what it leaves. -/
theorem State.perform_rd_ack {s : State} {a : Strap} {d : Device} {fs : List BusAnswer} {os : Bool} {e : Env}
    (hd : s.devices.get a = some d) (hb : s.env.frames = .ack :: fs)
    (ho : Env.readOs { s.env with frames := fs } d = (os, e)) :
    s.perform (.tx (.rd a.addr)) = (.bus (.ok (wordBytes (d.readValue os))), { s with
      devices := s.devices.set a (some d.afterRead)
      env := e
      wire := sentAck (.rd a.addr) (wordBytes (d.readValue os)) :: s.wire }) := by
  have htx := busTx_ack (f := .rd a.addr) (w := { bus := .ack, os, arms := false }) rfl hd rfl
  simp [State.perform, Env.drawsFor, Env.frameDraws_rd_ack hd hb, ho, Machine.perform, htx, transferOf, sentAck,
    Device.reply, Device.deliver]

/-- `readRegister` on an acknowledging, quiet bus: the word is what `readValue` takes once the pointer has moved. -/
theorem exec_readRegister_ack {s : State} {a : Strap} {d : Device} {i : Nat} {p : Reg} {os : Bool} {e : Env}
    (hs : s.Serves a d) (hb : s.env.acks 2) (hg : s.env.quiet 1) (hp : Reg.ofIndex i = some p)
    (ho : (s.env.after 2 1).readOs { d with ptr := p } = (os, e)) :
    exec (.readRegister i) s = .next ({ s.served a (Device.afterRead { d with ptr := p }) 2 1
        [sentAck (.rd a.addr) (wordBytes (Device.readValue { d with ptr := p } os)), sentAck (.ptr a.addr p) []] with
          env := e }.succeed 0x10#8 (.word (Device.readValue { d with ptr := p } os))) := by
  obtain ⟨hl, ha, hd⟩ := hs
  obtain ⟨fs, hb⟩ := hb
  obtain ⟨gs, hg⟩ := hg
  have hafter : s.env.after 2 1 = { s.env with frames := fs, gaps := gs } := by simp [Env.after, hb, hg]
  have hrun : exec (.readRegister i) s = (memRead a.addr p (raise Opcode.readRegister)
      fun v => succeed Opcode.readRegister (.word v)).run false s := by
    rw [exec_eq_run, routine, readRegisterRoutine, run_require hl, hp, ha]
    rfl
  rw [hrun, memRead, Routine.run_first, State.perform_tx_ack (f := .ptr a.addr p) rfl hd hb rfl]
  dsimp only [Reply.outcome]
  rw [Routine.run_next_quiet (gs := gs) (by exact hg), Routine.run_first,
    State.perform_rd_ack (a := a) (d := { d with ptr := p }) (fs := fs) (by simp [Device.deliver]) rfl (hafter ▸ ho)]
  simp [Routine.run, succeed, State.served, State.succeed, Opcode.readRegister, Device.reply]

/-- Settles O17: the word and the latched alert, case by case of the register; only the Config read in Continuous mode
takes a draw. -/
theorem readRegisterReturnsTheRegister : Obligations.ReadRegisterReturnsTheRegister := by
  intro s a d hs hb hg
  refine ⟨fun i p v hi => ?_, fun hm => ?_⟩
  · have fixed : Reg.ofIndex i = some p ∧ (p ≠ .config ∨ d.mode ≠ .continuous) ∧
        Device.readValue { d with ptr := p } false = v := by
      obtain ⟨rfl, rfl, rfl⟩ | ⟨rfl, rfl, hm, rfl⟩ | ⟨rfl, rfl, hm, rfl⟩ | ⟨rfl, rfl, rfl⟩ | ⟨rfl, rfl, rfl⟩ := hi
      · exact ⟨rfl, .inl nofun, rfl⟩
      · exact ⟨rfl, .inr (by simp [hm]), by simp [Device.readValue, Device.value, hm, osRead]⟩
      · exact ⟨rfl, .inr (by simp [hm]), by simp [Device.readValue, Device.value, hm, osRead]⟩
      · exact ⟨rfl, .inl nofun, rfl⟩
      · exact ⟨rfl, .inl nofun, rfl⟩
    obtain ⟨hp, hfixed, rfl⟩ := fixed
    rw [exec_readRegister_ack hs hb hg hp (Env.readOs_of_fixed hfixed), Device.afterRead_eq]
    rfl
  · have hv (os : Bool) : Device.readValue { d with ptr := .config } os = BitVec.ofBool os ++ d.cfg := by
      simp [Device.readValue, Device.value, hm, osRead]
    have ho := Env.readOs_of_free (e := s.env.after 2 1) (d := { d with ptr := .config }) rfl hm
    refine ⟨(s.env.after 2 1).nextOsRead.1, (s.env.after 2 1).nextOsRead.2, ?_, fun b rest hq => ?_⟩
    · rw [exec_readRegister_ack hs hb hg rfl ho, hv]
      rfl
    · rw [Env.nextOsRead_cons (by exact hq)]

/-! ### `writeRegister` (R80, R83) -/

/-- `writeRegister` on an acknowledging bus: the device takes the write, and a Config write is committed (R92). -/
theorem exec_writeRegister_ack {s : State} {a : Strap} {d : Device} {i : Nat} {r : WReg} (hs : s.Serves a d)
    (hb : s.env.acks 1) (hi : checkWritable i = .ok r) (v : Word) :
    exec (.writeRegister i v) s = .next ({ s.served a (Device.write { d with ptr := r.toReg } r v) 1 0
        [sentAck (.wr a.addr r v) []] with
          handle := if r = WReg.config then s.handle.commit v else s.handle }.succeed 0x11#8 .unit) := by
  obtain ⟨hl, ha, hd⟩ := hs
  obtain ⟨fs, hb : s.env.frames = .ack :: fs⟩ := hb
  have hafter : s.env.after 1 0 = { s.env with frames := fs } := by simp [Env.after, hb]
  rw [exec_eq_run, routine, writeRegisterRoutine, run_require hl, hi, State.served, hafter]
  cases r with
  | config => exact run_writeConfig_ack v none _ _ ha hd hb
  | low | high => rw [ha]; exact run_memWrite_ack _ v _ _ hd hb

/-- Settles O18. -/
theorem writeRegisterStoresTheValue : Obligations.WriteRegisterStoresTheValue :=
  fun _ _ _ v hs hb => ⟨exec_writeRegister_ack hs hb (r := .low) rfl v,
    exec_writeRegister_ack hs hb (r := .high) rfl v, exec_writeRegister_ack hs hb (r := .config) rfl v⟩

/-! ### What the writing commands leave unchanged -/

/-- The registers the writing command `i` may write: `writeRegister` its own, `setThresholds` the thresholds,
`armComparator` all three, and every other one Config. -/
def Writes : Instr → WReg → Prop
  | .writeRegister n _, r => checkWritable n = .ok r
  | .setThresholds _ _, r => r ≠ .config
  | .armComparator .., _ => True
  | _, r => r = .config

/-- Of the device `d` the registers outside `W` stay, and with Config all hidden state but the pointer (R74, R76). -/
def Device.OnlyWritten (W : WReg → Prop) (d d' : Device) : Prop :=
  d'.conversion = d.conversion ∧ (¬W .low → d'.low = d.low) ∧ (¬W .high → d'.high = d.high) ∧
  (¬W .config → d' = { d with ptr := d'.ptr, low := d'.low, high := d'.high })

theorem Device.OnlyWritten.refl {W : WReg → Prop} (d : Device) : d.OnlyWritten W d :=
  ⟨rfl, fun _ => rfl, fun _ => rfl, fun _ => rfl⟩

theorem Device.OnlyWritten.deliver {W : WReg → Prop} {d d' : Device} (h : d.OnlyWritten W d') {r : WReg} (hr : W r)
    (x : Addr) (v : Word) : d.OnlyWritten W (d'.deliver (.wr x r v)) := by
  obtain ⟨hconversion, hlow, hhigh, hrest⟩ := h
  cases r with
  | config => exact ⟨hconversion, hlow, hhigh, fun hn => absurd hr hn⟩
  | low => exact ⟨hconversion, fun hn => absurd hr hn, hhigh, fun hn => by rw [hrest hn]; rfl⟩
  | high => exact ⟨hconversion, hlow, fun hn => absurd hr hn, fun hn => by rw [hrest hn]; rfl⟩

/-- What a command that writes only the registers in `W` leaves of the state `s` it began in. -/
def WriteFrame (W : WReg → Prop) (s t : State) : Prop :=
  t.line = s.line ∧ t.others = s.others ∧ t.handle.addr = s.handle.addr ∧ t.handle.live = s.handle.live ∧
  (¬W .config → t.handle = s.handle) ∧
  Devices.ChangedAt s.handle.addr (Device.OnlyWritten W) s.devices t.devices

theorem WriteFrame.refl (W : WReg → Prop) (s : State) : WriteFrame W s s :=
  ⟨rfl, rfl, rfl, rfl, fun _ => rfl, .refl _ Device.OnlyWritten.refl _⟩

/-- The controller steps of a command that writes the registers in `W` of the device at bus address `x` (R80, R92). -/
def WriteAction (W : WReg → Prop) (x : Addr) : Action → Prop
  | .tx f => ∃ r v, f = .wr x r v ∧ W r
  | .config _ _ => W .config
  | .arm => False
  | .look => False
  | .clearFlag => False
  | .waits _ => False

/-- A Config write moves a handle's cache, gain and engine alone, however its frame ends (R92, R108). -/
@[simp] theorem Handle.afterConfigWrite_addr (h : Handle) (v : Word) (after : Option Engine)
    (r : Except BusFailure (List Byte)) : (h.afterConfigWrite v after r).addr = h.addr := by
  cases r <;> cases after <;> rfl

@[simp] theorem Handle.afterConfigWrite_live (h : Handle) (v : Word) (after : Option Engine)
    (r : Except BusFailure (List Byte)) : (h.afterConfigWrite v after r).live = h.live := by
  cases r <;> cases after <;> rfl

theorem WriteFrame.perform {W : WReg → Prop} {s u : State} {a : Action} (ha : WriteAction W s.handle.addr a)
    (h : WriteFrame W s u) : WriteFrame W s (u.perform a).2 := by
  obtain ⟨hline, hothers, haddr, hlive, hhandle, hds⟩ := h
  cases a with
  | tx f =>
    obtain ⟨r, v, rfl, hr⟩ := ha
    exact ⟨hline, hothers, haddr, hlive, hhandle, hds.busTx rfl (fun _ _ hk => hk.deliver hr ..) _⟩
  | config v after =>
    exact ⟨hline, hothers, (Handle.afterConfigWrite_addr ..).trans haddr, (Handle.afterConfigWrite_live ..).trans hlive,
      fun hn => absurd ha hn, hds.busTx (f := .wr u.handle.addr .config v) haddr (fun _ _ hk => hk.deliver ha ..) _⟩
  | arm | look | clearFlag | waits => exact ha.elim

theorem WriteFrame.keptInQuiet (W : WReg → Prop) (s : State) :
    KeptInQuiet (fun _ => False) (WriteAction W s.handle.addr) (WriteFrame W s) where
  draws _ _ h := h
  perform _ _ ha h := h.perform ha
  update _ _ hu _ := hu.elim
  answer _ _ _ h := h
  hold _ h := h

section Within

variable {P : Update → Prop} {Q : Action → Prop} {n : Nat} {onFail : HostError → Routine} {onAck : Routine}
  (hf : ∀ e, (onFail e).Within P Q n) (ha : onAck.Within P Q n)
include hf ha

/-- `MemWrite` takes one step more than what follows it. -/
theorem within_memWrite {x : Addr} {r : WReg} {v : Word} (hw : Q (.tx (.wr x r v))) :
    (memWrite x r v onFail onAck).Within P Q (n + 1) := by
  refine ⟨hw, fun reply => ?_⟩
  dsimp only
  split
  · exact hf _
  · exact ha

/-- So does a handle's Config write. -/
theorem within_writeConfig {v : Word} {after : Option Engine} (hw : Q (.config v after)) :
    (writeConfig v after onFail onAck).Within P Q (n + 1) := by
  refine ⟨hw, fun reply => ?_⟩
  dsimp only
  split
  · exact hf _
  · exact ha

end Within

/-- `i` is a writing command, and `n` the quiet gaps O57 gives it. -/
def WritesInGaps (i : Instr) (n : Nat) : Prop :=
  n = 0 ∧ ((∃ c g, i = .startSingleShot c g) ∨ (∃ c g r, i = .startContinuous c g r) ∨
    (∃ c g cm p l q, i = .enableComparator c g cm p l q) ∨ i = .disableComparator ∨ ∃ r v, i = .writeRegister r v) ∨
  n = 2 ∧ ((∃ lo hi, i = .setThresholds lo hi) ∨ ∃ c g cm p l q lo hi, i = .armComparator c g cm p l q lo hi)

/-- Every writing command is made of writes of its registers, at most one more than its gaps. -/
theorem routine_within_of_writesInGaps {i : Instr} {n : Nat} (h : Handle) (holding : Bool) (hi : WritesInGaps i n) :
    (routine i h holding).Within (fun _ => False) (WriteAction (Writes i) h.addr) (n + 1) := by
  have config {k : Nat} (hi : Writes i .config) (v : Word) (after : Option Engine) (op op' : Byte) :
      (writeConfig v after (raise op) (succeed op' .unit)).Within (fun _ => False) (WriteAction (Writes i) h.addr)
        (k + 1) :=
    within_writeConfig (onFail := raise op) (onAck := succeed op' .unit) (fun _ => trivial) trivial hi
  have threshold {k : Nat} {m : Routine} {r : WReg} {v : Word} (hi : Writes i r) (op : Byte)
      (hm : m.Within (fun _ => False) (WriteAction (Writes i) h.addr) k) :
      (memWrite h.addr r v (raise op) m).Within (fun _ => False) (WriteAction (Writes i) h.addr) (k + 1) :=
    within_memWrite (onFail := raise op) (fun _ => trivial) hm ⟨r, v, rfl, hi⟩
  obtain ⟨rfl, ⟨c, g, rfl⟩ | ⟨c, g, r, rfl⟩ | ⟨c, g, cm, p, l, q, rfl⟩ | rfl | ⟨r, v, rfl⟩⟩ |
    ⟨rfl, ⟨lo, hi, rfl⟩ | ⟨c, g, cm, p, l, q, lo, hi, rfl⟩⟩ := hi
  · exact within_require (within_checked fun _ _ => config rfl ..)
  · exact within_require (within_checked fun _ _ => config rfl ..)
  · exact within_require (within_checked fun _ _ => config rfl ..)
  · exact within_require (config rfl ..)
  · refine within_require (within_checked fun x hx => ?_)
    cases x with
    | config => exact config hx ..
    | low | high => exact threshold hx _ trivial
  · refine within_require (threshold ?_ _ (threshold ?_ _ trivial)) <;> exact nofun
  · exact within_require (within_checked fun _ _ =>
      threshold trivial _ (threshold trivial _ (config trivial ..)))

theorem exec_writeFrame {i : Instr} {n : Nat} {s t : State} (h : exec i s = .next t) (hi : WritesInGaps i n)
    (hq : s.env.quiet n) : WriteFrame (Writes i) s t := by
  rw [exec_eq_run] at h
  exact (routine_within_of_writesInGaps _ _ hi).run_keeps (WriteFrame.keptInQuiet _ s) hq h (.refl _ s)

/-- Settles O57: everything a writing command does keeps `WriteFrame` of the registers it writes. -/
theorem writingCommandsFrame : Obligations.WritingCommandsFrame := by
  intro i s t h hi
  obtain ⟨n, hw, hq⟩ : ∃ n, WritesInGaps i n ∧ s.env.quiet n := by
    have quiet0 : s.env.quiet 0 := ⟨s.env.gaps, rfl⟩
    obtain hi | hi | hi | hi | hi | ⟨hq, hi⟩ := hi
    · exact ⟨0, .inl ⟨rfl, .inl hi⟩, quiet0⟩
    · exact ⟨0, .inl ⟨rfl, .inr (.inl hi)⟩, quiet0⟩
    · exact ⟨0, .inl ⟨rfl, .inr (.inr (.inl hi))⟩, quiet0⟩
    · exact ⟨0, .inl ⟨rfl, .inr (.inr (.inr (.inl hi)))⟩, quiet0⟩
    · exact ⟨0, .inl ⟨rfl, .inr (.inr (.inr (.inr hi)))⟩, quiet0⟩
    · exact ⟨2, .inr ⟨rfl, hi⟩, hq⟩
  obtain ⟨hline, hothers, haddr, hlive, hhandle, hother, hown⟩ := exec_writeFrame h hw hq
  refine ⟨hline, hothers, haddr, hlive, ?_, hother, fun b d hd => ?_⟩
  · rintro ⟨lo, hi, rfl⟩
    exact hhandle (not_not_intro rfl)
  · obtain ⟨d', hd', hconversion, hlow, hhigh, hrest⟩ := hown b d hd
    refine ⟨d', hd', hconversion, ?thresholds, ?low, ?high, ?config⟩
    case thresholds =>
      rintro (⟨lo, hi, rfl⟩ | ⟨v, rfl⟩ | ⟨v, rfl⟩)
      · exact hrest (not_not_intro rfl)
      · exact hrest nofun
      · exact hrest nofun
    case low =>
      rintro v rfl
      exact hhigh nofun
    case high =>
      rintro v rfl
      exact hlow nofun
    case config =>
      rintro (⟨c, g, rfl⟩ | ⟨c, g, r, rfl⟩ | ⟨c, g, cm, p, l, q, rfl⟩ | rfl | ⟨v, rfl⟩) <;>
        exact ⟨hlow nofun, hhigh nofun⟩

end Sys2Proof.Machine
end

section
/-! The Config word, built and taken apart, and the Config register: what a write leaves in the handle's cache and in the
device, and what is read back. -/

namespace Sys2Proof

/-! ### Codes and the fields they stand for (R56 to R61) -/

@[simp] theorem Channel.ofCode_code (c : Channel) : Channel.ofCode c.code = c := by cases c <;> rfl
@[simp] theorem Gain.ofCode_code (g : Gain) : Gain.ofCode g.code = g := by cases g <;> rfl
@[simp] theorem DataRate.ofCode_code (r : DataRate) : DataRate.ofCode r.code = r := by cases r <;> rfl
@[simp] theorem Queue.ofCode_code (q : Queue) : Queue.ofCode q.code = q := by cases q <;> rfl

@[simp] theorem Mode.ite_code (m : Mode) : (if m.code then .singleShot else .continuous) = m := by cases m <;> rfl
@[simp] theorem CompareMode.ite_code (m : CompareMode) : (if m.code then .window else .traditional) = m := by
  cases m <;> rfl
@[simp] theorem Polarity.ite_code (p : Polarity) : (if p.code then .activeHigh else .activeLow) = p := by
  cases p <;> rfl
@[simp] theorem Latch.ite_code (l : Latch) : (if l.code then .latching else .nonLatching) = l := by cases l <;> rfl

@[simp] theorem Mode.code_ite (b : Bool) : Mode.code (if b then .singleShot else .continuous) = b := by cases b <;> rfl
@[simp] theorem CompareMode.code_ite (b : Bool) : CompareMode.code (if b then .window else .traditional) = b := by
  cases b <;> rfl
@[simp] theorem Polarity.code_ite (b : Bool) : Polarity.code (if b then .activeHigh else .activeLow) = b := by
  cases b <;> rfl
@[simp] theorem Latch.code_ite (b : Bool) : Latch.code (if b then .latching else .nonLatching) = b := by
  cases b <;> rfl

end Sys2Proof

namespace Sys2Proof.Machine

/-! ### Fields to word to fields (R89) -/

theorem fieldsOf_buildWord (f : ConfigFields) : fieldsOf (buildWord f) = f := by
  obtain ⟨h15, h12, h9, h8, h5, h4, h3, h2, h0⟩ := buildWord_fields f
  simp only [fieldsOf, h15, h12, h9, h8, h5, h4, h3, h2, h0, Channel.ofCode_code, Gain.ofCode_code, Mode.ite_code,
    DataRate.ofCode_code, CompareMode.ite_code, Polarity.ite_code, Latch.ite_code, Queue.ofCode_code]

/-- Settles O24: each command's word is `buildWord` of exactly these fields. -/
theorem commandsMergeIntoTheBaseWord : Obligations.CommandsMergeIntoTheBaseWord :=
  fun _ _ _ _ _ => ⟨fieldsOf_buildWord _, fieldsOf_buildWord _, fieldsOf_buildWord _, fieldsOf_buildWord _⟩

/-! ### Word to fields to word (R89) -/

theorem ofBool_getLsbD {n : Nat} (w : BitVec n) (i : Nat) : BitVec.ofBool (w.getLsbD i) = w.extractLsb' i 1 := by
  have bit : ∀ x : BitVec 1, BitVec.ofBool (x == 1#1) = x := by decide
  rw [BitVec.getLsbD_eq_extractLsb', bit]

/-- A word is the bits above PGA, PGA, and the bits below it (R55). -/
theorem append_around_pga (w : Word) : w.extractLsb' 12 4 ++ w.extractLsb' 9 3 ++ w.extractLsb' 0 9 = w := by
  simp (disch := decide) only [BitVec.extractLsb'_append_extractLsb'_eq_extractLsb']
  exact BitVec.extractLsb'_eq_self

/-- The bits above PGA are OS and MUX (R55). -/
theorem extractLsb'_above_pga (w : Word) :
    w.extractLsb' 12 4 = BitVec.ofBool (w.getLsbD 15) ++ w.extractLsb' 12 3 := by
  simp (disch := decide) only [ofBool_getLsbD, BitVec.extractLsb'_append_extractLsb'_eq_extractLsb']

/-- The bits below PGA are the other six fields (R55). -/
theorem extractLsb'_below_pga (w : Word) : w.extractLsb' 0 9 =
    BitVec.ofBool (w.getLsbD 8) ++ w.extractLsb' 5 3 ++ BitVec.ofBool (w.getLsbD 4) ++ BitVec.ofBool (w.getLsbD 3) ++
      BitVec.ofBool (w.getLsbD 2) ++ w.extractLsb' 0 2 := by
  simp (disch := decide) only [ofBool_getLsbD, BitVec.extractLsb'_append_extractLsb'_eq_extractLsb']

/-- A word built from the fields of `w` is `w` but for PGA, which holds the code of the gain (R57, R88). -/
theorem buildWord_fieldsOf (w : Word) :
    buildWord (fieldsOf w) = w.extractLsb' 12 4 ++ (fieldsOf w).gain.code ++ w.extractLsb' 0 9 := by
  obtain ⟨h15, h12, h9, h8, h5, h4, h3, h2, h0⟩ := buildWord_fields (fieldsOf w)
  rw [← append_around_pga (buildWord _), h9, extractLsb'_above_pga, extractLsb'_below_pga, h15, h12, h8, h5, h4, h3, h2,
    h0, extractLsb'_above_pga w, extractLsb'_below_pga w]
  simp only [fieldsOf, Channel.code_ofCode, Mode.code_ite, DataRate.code_ofCode, CompareMode.code_ite,
    Polarity.code_ite, Latch.code_ite, Queue.code_ofCode]

/-- Settles O22: only PGA can differ, and a code up to 0b101 is the code of its gain, the two above it stand for the gain
of 0b101. -/
theorem configWordRoundTrips : Obligations.ConfigWordRoundTrips := by
  have legal : ∀ c : BitVec 3, c.toNat ≤ 0b101 → (Gain.ofCode c).code = c := by decide
  have reserved : ∀ c : BitVec 3, 0b110 ≤ c.toNat → (Gain.ofCode c).code = 0b101#3 := by decide
  refine ⟨fieldsOf_buildWord, fun w h => ?_, fun w h => ?_⟩ <;> rw [buildWord_fieldsOf, fieldsOf]
  · rw [legal _ h, append_around_pga]
  · rw [reserved _ h]

/-! ### The cache (R92) -/

/-- Between `s` and `t`, with the frames `sent`, the handle's cache and gain have stayed, or they are those of a word
whose Config write is one of these frames and was acknowledged. -/
def CacheFollows (s t : State) (sent : List Transfer) : Prop :=
  (t.handle.cache = s.handle.cache ∧ t.handle.gain = s.handle.gain) ∨
  ∃ w, t.handle.cache = some w ∧ t.handle.gain = some (fieldsOf w).gain ∧
    sentAck (.wr s.handle.addr .config w) [] ∈ sent

theorem CacheFollows.trans {s t u : State} {sent sent' : List Transfer} (h : CacheFollows s t sent)
    (h' : CacheFollows t u sent') (ha : t.handle.addr = s.handle.addr) : CacheFollows s u (sent' ++ sent) := by
  obtain ⟨hc', hg'⟩ | ⟨w, hc', hg', hmem⟩ := h'
  · obtain ⟨hc, hg⟩ | ⟨w, hc, hg, hmem⟩ := h
    · exact .inl ⟨hc'.trans hc, hg'.trans hg⟩
    · exact .inr ⟨w, hc'.trans hc, hg'.trans hg, List.mem_append_right _ hmem⟩
  · exact .inr ⟨w, hc', hg', List.mem_append_left _ (ha ▸ hmem)⟩

/-- Of the micro steps only an acknowledged Config write moves cache or gain. -/
theorem Micro.cacheFollows {s t : State} (m : Micro s t) : ∃ sent, SentBetween s t sent ∧ CacheFollows s t sent := by
  obtain ⟨sent, hsent⟩ := m.wire
  refine ⟨sent, hsent, ?_⟩
  cases m with
  | configured w =>
    have hw : sent = [sentAck (.wr s.handle.addr .config w) []] := (List.append_cancel_right hsent).symm
    exact .inr ⟨w, rfl, rfl, hw ▸ List.mem_singleton_self _⟩
  | gap | draws | acked | failed | engine | line | dies | answer | hold => exact .inl ⟨rfl, rfl⟩

theorem Micros.addr {s t : State} (h : Micros s t) : t.handle.addr = s.handle.addr := by
  induction h with
  | refl => rfl
  | tail _ m ih =>
    obtain ⟨haddr, -⟩ := m.keeps
    exact haddr.trans ih

theorem Micros.cacheFollows {s t : State} (h : Micros s t) :
    ∃ sent, SentBetween s t sent ∧ CacheFollows s t sent := by
  induction h with
  | refl => exact ⟨[], rfl, .inl ⟨rfl, rfl⟩⟩
  | tail hm m ih =>
    obtain ⟨sent, hsent, hf⟩ := ih
    obtain ⟨sent', hsent', hf'⟩ := m.cacheFollows
    exact ⟨sent' ++ sent, by rw [SentBetween, hsent', hsent, List.append_assoc], hf.trans hf' (Micros.addr hm)⟩

/-- Settles O55: a raw Config write leaves the handle alone, and every other command is a sequence of micro steps. -/
theorem cacheFollowsAcknowledgedWrites : Obligations.CacheFollowsAcknowledgedWrites := by
  intro i s t sent h hi hsent
  by_cases hraw : ∃ a v, i = .wrConfig a v
  · obtain ⟨a, v, rfl⟩ := hraw
    cases h
    exact .inl ⟨rfl, rfl⟩
  · obtain ⟨sent', hsent', hf⟩ := (exec_micros h hi fun a v e => hraw ⟨a, v, e⟩).cacheFollows
    obtain rfl : sent' = sent := List.append_cancel_right (hsent'.symm.trans hsent)
    exact hf

/-! ### Controller steps by the bus's answer (R73) -/

theorem Devices.at_eq_some {ds : Devices} {x : Addr} {d : Device} :
    ds.at x = some d ↔ ∃ a, x = a.addr ∧ ds.get a = some d := by
  constructor
  · intro h
    obtain ⟨a, ha, hd⟩ := Option.bind_eq_some_iff.mp h
    exact ⟨a, addr_of_ofAddr ha, hd⟩
  · rintro ⟨a, rfl, hd⟩
    exact (ds.at_addr a).trans hd

/-- A frame's effect as its device finds it. -/
theorem Devices.get_deliver {ds : Devices} {a : Strap} {d : Device} {f : Frame} (hf : f.addr = a.addr)
    (hd : ds.get a = some d) : (ds.deliver f).get a = some (d.deliver f) := by
  rw [Devices.deliver_of_get hf hd, Devices.get_set, if_pos rfl]

/-- A frame of the running session is acknowledged by a device, with its full effect, or fails. -/
theorem State.perform_tx_cases (s : State) (f : Frame) :
    (∃ d os m, s.devices.at f.addr = some d ∧ s.perform (.tx f) = (.bus (.ok (d.reply os f)), m) ∧
      m.devices = s.devices.deliver f ∧ m.wire = sentAck f (d.reply os f) :: s.wire) ∨
    ∃ how m, s.perform (.tx f) = (.bus (.error how), m) := by
  obtain ⟨w, e, hp⟩ := s.perform_tx f
  obtain ⟨d, hd, hb⟩ | ⟨how, took, hb⟩ := busTx_cases s.devices f w <;> rw [hb] at hp
  · exact .inl ⟨d, w.os, _, hd, hp, rfl, rfl⟩
  · exact .inr ⟨how, _, hp⟩

/-- A Config write of the running session, whatever the draws `w` it takes. -/
theorem State.perform_config (s : State) (v : Word) (after : Option Engine) :
    ∃ w e r, r = busTx s.devices (.wr s.handle.addr .config v) w ∧ s.perform (.config v after) = (.bus r.1, { s with
      devices := r.2
      handle := s.handle.afterConfigWrite v after r.1
      env := e
      wire := transferOf .controller (.wr s.handle.addr .config v) r.1 :: s.wire }) :=
  ⟨_, _, _, rfl, rfl⟩

/-- A Config write of the running session is acknowledged by a device and committed, or fails (R92). -/
theorem State.perform_config_cases (s : State) (v : Word) (after : Option Engine) :
    (∃ d m, s.devices.at s.handle.addr = some d ∧ s.perform (.config v after) = (.bus (.ok []), m) ∧
      m.devices = s.devices.deliver (.wr s.handle.addr .config v) ∧
      m.handle = s.handle.afterConfigWrite v after (.ok []) ∧
      m.wire = sentAck (.wr s.handle.addr .config v) [] :: s.wire) ∨
    ∃ how m, s.perform (.config v after) = (.bus (.error how), m) := by
  obtain ⟨w, e, r, hr, hp⟩ := s.perform_config v after
  obtain ⟨d, hd, hb⟩ | ⟨how, took, hb⟩ := busTx_cases s.devices (.wr s.handle.addr .config v) w <;>
    rw [hr, hb] at hp
  · exact .inl ⟨d, _, hd, hp, rfl, rfl, rfl⟩
  · exact .inr ⟨how, _, hp⟩

/-! ### A Config write or a register read that succeeded -/

/-- A command that answers a next state has met its requirement. -/
theorem run_require_next {c : Bool} {r : Refusal} {body : Routine} {begun : Bool} {s t : State}
    (h : (require c r body).run begun s = .next t) : body.run begun s = .next t := by
  cases c with
  | true => exact h
  | false => cases h

/-- A `writeRegister 1` that succeeded was acknowledged: the handle's device has taken the write, and it is committed
(R83, R92). -/
theorem exec_writeConfig_done {s t : State} {v : Word} (h : exec (.writeRegister 1 v) s = .next t)
    (hr : t.host.report = some { opcode := some 0x11#8, answer := .done .unit }) :
    ∃ (a : Strap) (d : Device), s.handle.addr = a.addr ∧ t.handle = s.handle.commit v ∧
      t.devices.get a = some ({ d with ptr := .config }.write .config v) ∧
      t.wire = sentAck (.wr a.addr .config v) [] :: s.wire := by
  rw [exec_eq_run] at h
  have hrun : (writeConfig v none (raise Opcode.writeRegister) (succeed Opcode.writeRegister .unit)).run false s =
      .next t := run_require_next h
  rw [writeConfig, Routine.run_first] at hrun
  obtain ⟨d, m, hd, hp, hds, hhandle, hwire⟩ | ⟨how, m, hp⟩ := s.perform_config_cases v none <;>
    rw [hp] at hrun <;> cases hrun
  · obtain ⟨a, ha, hd⟩ := Devices.at_eq_some.mp hd
    rw [ha] at hds hwire
    exact ⟨a, d, ha, hhandle, (congrArg (·.get a) hds).trans (Devices.get_deliver rfl hd), hwire⟩
  · cases hr

/-- A `readRegister` that succeeded was acknowledged twice. Between its two frames, after which the state was `m`, the
other agents may have stepped; the word is what the device sends at the second (R79, R82). -/
theorem exec_readRegister_done {s t : State} {i : Nat} {p : Reg} {r : Word} (hp : Reg.ofIndex i = some p)
    (h : exec (.readRegister i) s = .next t)
    (hr : t.host.report = some { opcode := some 0x10#8, answer := .done (.word r) }) :
    ∃ (m : State) (d : Device) (os : Bool), m.devices = s.devices.deliver (.ptr s.handle.addr p) ∧
      m.wire = sentAck (.ptr s.handle.addr p) [] :: s.wire ∧ m.gap.devices.at s.handle.addr = some d ∧
      r = d.readValue os ∧ t.wire = sentAck (.rd s.handle.addr) (wordBytes r) :: m.gap.wire := by
  rw [exec_eq_run] at h
  have hrun : (memRead s.handle.addr p (raise Opcode.readRegister)
      fun v => succeed Opcode.readRegister (.word v)).run false s = .next t := by
    have hbody := run_require_next h
    rwa [hp] at hbody
  rw [memRead, Routine.run_first] at hrun
  obtain ⟨_, _, m, -, hptr, hds, hwire⟩ | ⟨how, m, hptr⟩ := s.perform_tx_cases (.ptr s.handle.addr p) <;>
    rw [hptr] at hrun
  · dsimp only [Reply.outcome] at hrun
    rw [Routine.run_next, Routine.run_first] at hrun
    obtain ⟨d, os, m', hd, hrd, -, hwire'⟩ | ⟨how, m', hrd⟩ := m.gap.perform_tx_cases (.rd s.handle.addr) <;>
      rw [hrd] at hrun <;> cases hrun
    · obtain ⟨-, rfl⟩ : Opcode.readRegister = 0x10#8 ∧ joinBytes (wordBytes (d.readValue os)) = r := by
        simpa [Device.reply] using hr
      rw [joinBytes_wordBytes]
      exact ⟨m, d, os, hds, hwire, hd, rfl, hwire'⟩
    · cases hr
  · cases hrun
    cases hr

/-! ### The channel (R94) -/

theorem extractLsb'_extractLsb' {n s k t m : Nat} (x : BitVec n) (h : t + m ≤ k) :
    (x.extractLsb' s k).extractLsb' t m = x.extractLsb' (s + t) m := by
  apply BitVec.eq_of_getLsbD_eq
  intro i hi
  have hk : t + i < k := by omega
  simp [hi, hk, Nat.add_assoc]

/-- MUX lies in the bits a device stores (R24). -/
theorem extractLsb'_mux (w : Word) : w.extractLsb' 12 3 = (w.extractLsb' 0 15).extractLsb' 12 3 :=
  (extractLsb'_extractLsb' (s := 0) (t := 12) w (Nat.le_refl 15)).symm

/-- Settles O23: the second write replaces all the stored bits, whatever they were. -/
theorem channelOfTheLastWriteOnly : Obligations.ChannelOfTheLastWriteOnly := by
  intro s t u vA vB steps _ _ h hr
  obtain ⟨a, d, ha, hhandle, hd, -⟩ := exec_writeConfig_done h hr
  refine ⟨_, Devices.at_eq_some.mpr ⟨a, by rw [hhandle, Handle.commit_addr, ha], hd⟩, fun os => ?_⟩
  rw [extractLsb'_mux, Device.value_config_low, Device.write_config, ← extractLsb'_mux, fieldsOf, Channel.code_ofCode]

/-! ### Other agents that send no frame -/

/-- At every position the pointer and the Config register are as before. -/
def Devices.SameConfig (ds ds' : Devices) : Prop :=
  ∀ a, (ds'.get a).map (fun d => (d.ptr, d.cfg)) = (ds.get a).map fun d => (d.ptr, d.cfg)

theorem Devices.SameConfig.get {ds ds' : Devices} (h : ds.SameConfig ds') {a : Strap} {d : Device}
    (hd : ds.get a = some d) : ∃ d', ds'.get a = some d' ∧ d'.ptr = d.ptr ∧ d'.cfg = d.cfg := by
  have ha := h a
  rw [hd] at ha
  obtain ⟨d', hd', he⟩ := Option.map_eq_some_iff.mp ha
  exact ⟨d', hd', congrArg Prod.fst he, congrArg Prod.snd he⟩

/-- A conversion moves neither pointer nor Config (R106, R121). -/
theorem Device.complete_ptr_cfg (d : Device) (x : Word) (al : Bool) (c : Nat) :
    ((d.complete x al c).ptr, (d.complete x al c).cfg) = (d.ptr, d.cfg) := by
  have sample (d : Device) : ((d.compareSample x al c).ptr, (d.compareSample x al c).cfg) = (d.ptr, d.cfg) := by
    unfold Device.compareSample
    split
    · rfl
    · split <;> rfl
  exact sample _

theorem State.convert_sameConfig (s : State) (a : Strap) (x : Word) (al : Bool) (c : Nat) :
    s.devices.SameConfig (s.convert a x al c).devices := by
  unfold State.convert
  split
  · exact fun _ => rfl
  · rename_i d hd
    have hset : s.devices.SameConfig (s.devices.set a (some (d.complete x al c))) := by
      intro b
      rw [Devices.get_set]
      split
      · rename_i hb
        rw [hb, hd, Option.map_some, Option.map_some, d.complete_ptr_cfg]
      · rfl
    split
    · dsimp only
      split <;> exact hset
    · exact fun _ => rfl

theorem State.agentStep_sameConfig {s : State} {x : AgentStep} (h : (s.agentStep x).wire = s.wire) :
    s.devices.SameConfig (s.agentStep x).devices := by
  cases x with
  | convert a v al c => exact s.convert_sameConfig a v al c
  | deliver | deliverOther => exact fun _ => rfl
  | controller k w =>
    cases hk : s.others[k]? with
    | none =>
      rw [State.agentStep_controller_none hk]
      exact fun _ => rfl
    | some p =>
      rw [State.agentStep_controller hk] at h ⊢
      obtain ⟨-, hds⟩ | ⟨y, hsent, -⟩ := p.turn_atMostOneFrame w s.devices
      · exact fun _ => by rw [hds]
      · simp [hsent] at h
  | foreign f => simp [State.agentStep] at h

theorem State.agentSteps_sameConfig {s : State} {xs : List AgentStep} (h : (s.agentSteps xs).wire = s.wire) :
    s.devices.SameConfig (s.agentSteps xs).devices := by
  induction xs generalizing s with
  | nil => exact fun _ => rfl
  | cons x xs ih =>
    obtain ⟨-, -, -, -, first, hfirst, -⟩ := s.agentStep_keeps x
    obtain ⟨-, -, -, -, rest, hrest, -⟩ := (s.agentStep x).agentSteps_keeps xs
    have hnone : rest ++ first = [] := by
      have hw : (s.agentSteps (x :: xs)).wire = rest ++ (s.agentStep x).wire := hrest
      rw [h, hfirst, ← List.append_assoc] at hw
      exact List.self_eq_append_left.mp hw
    obtain ⟨rfl, rfl⟩ := List.append_eq_nil_iff.mp hnone
    exact fun a => (ih hrest a).trans (s.agentStep_sameConfig hfirst a)

/-- A gap in which no other caller's frame falls leaves every pointer and Config register. -/
theorem State.gap_sameConfig (s : State) : ∃ sent, s.gap.wire = sent ++ s.wire ∧
    ((∀ y ∈ sent, y.sender = .controller) → s.devices.SameConfig s.gap.devices) := by
  obtain ⟨-, -, -, -, sent, hwire, hother⟩ := s.agentSteps_keeps s.env.nextGap.1
  refine ⟨sent, hwire, fun hours => State.agentSteps_sameConfig ?_⟩
  have hnone : sent = [] :=
    List.eq_nil_iff_forall_not_mem.mpr fun y hy => nomatch (hother y hy).symm.trans (hours y hy)
  exact hwire.trans (by rw [hnone, List.nil_append])

/-! ### A Config word read back (R93) -/

/-- Words that agree in bits 14:0 agree under the mask. -/
theorem and_mask_eq_of_low_eq {r v : Word} (h : r.extractLsb' 0 15 = v.extractLsb' 0 15) :
    r &&& 0x7FFF#16 = v &&& 0x7FFF#16 := by
  have low (w : Word) : (w &&& 0x7FFF#16).toNat = (w.extractLsb' 0 15).toNat := by
    rw [BitVec.toNat_and, BitVec.extractLsb'_toNat]
    exact Nat.and_two_pow_sub_one_eq_mod w.toNat 15
  apply BitVec.eq_of_toNat_eq
  rw [low, low, h]

/-- Settles O19: from the write to the RD frame the device's Config is carried over the gap between the commands, the PTR
frame, and the gap inside the read. -/
theorem configReadsBackAsWritten : Obligations.ConfigReadsBackAsWritten := by
  intro s t u v r sent hw hwr hrd hrdr hsent hours
  obtain ⟨a, d, ha, hhandle, written, hwire⟩ := exec_writeConfig_done hw hwr
  obtain ⟨m, e, os, hm, hmwire, he, rfl, huwire⟩ := exec_readRegister_done (p := .config) rfl hrd hrdr
  rw [State.gap_handle, hhandle, Handle.commit_addr, ha] at hm hmwire he huwire
  obtain ⟨between, hbetween, keptBetween⟩ := t.gap_sameConfig
  obtain ⟨within, hwithin, keptWithin⟩ := m.gap_sameConfig
  have hsent : sent = sentAck (.rd a.addr) (wordBytes (e.readValue os)) :: (within ++
      sentAck (.ptr a.addr .config) [] :: (between ++ [sentAck (.wr a.addr .config v) []])) := by
    apply List.append_cancel_right (bs := s.wire)
    rw [← hsent, huwire, hwithin, hmwire, hbetween, hwire]
    simp
  obtain ⟨d1, hd1, -, hcfg1⟩ := (keptBetween fun y hy => hours y (by simp [hsent, hy])).get written
  have pointed : m.devices.get a = some { d1 with ptr := .config } := by
    rw [hm, Devices.get_deliver rfl hd1]
    rfl
  obtain ⟨d2, hd2, hptr, hcfg2⟩ := (keptWithin fun y hy => hours y (by simp [hsent, hy])).get pointed
  obtain rfl : d2 = e := Option.some.inj (hd2.symm.trans ((Devices.at_addr ..).symm.trans he))
  obtain ⟨hlow, -⟩ := Device.readValue_config hptr os
  exact and_mask_eq_of_low_eq (hlow.trans (hcfg2.trans hcfg1))

end Sys2Proof.Machine
end

/-! SUPPORT and settled obligations: the scaler. Patterns are read as rational numbers, each operation is the exact
one up to a relative error, and the bounds on the errors settle R97, R99 and R101. -/

namespace Sys2Proof.Machine

namespace Fp

/-! ### The fields of a pattern -/

theorem sign_eq (x : F64) : sign x = decide (2 ^ 63 ≤ x.toNat) := BitVec.msb_eq_decide x

theorem expField_eq (x : F64) : expField x = x.toNat / 2 ^ 52 % 2 ^ 11 := by
  rw [expField, BitVec.extractLsb'_toNat, Nat.shiftRight_eq_div_pow]

theorem fracField_eq (x : F64) : fracField x = x.toNat % 2 ^ 52 := by
  rw [fracField, BitVec.extractLsb'_toNat, Nat.shiftRight_zero]

theorem fracField_lt (x : F64) : fracField x < 2 ^ 52 := (x.extractLsb' 0 52).isLt

theorem extractLsb'_low63_toNat (x : F64) : (x.extractLsb' 0 63).toNat = expField x * 2 ^ 52 + fracField x := by
  rw [expField_eq, fracField_eq, BitVec.extractLsb'_toNat, Nat.shiftRight_zero]
  omega

theorem pack_toNat (neg : Bool) (m : Nat) : (pack neg m).toNat = neg.toNat * 2 ^ 63 + m % 2 ^ 63 := by
  have h : (pack neg m).toNat = (BitVec.ofBool neg).toNat <<< 63 ||| (BitVec.ofNat 63 m).toNat := BitVec.toNat_append ..
  rw [h, ← Nat.shiftLeft_add_eq_or_of_lt (BitVec.isLt _), Nat.shiftLeft_eq, BitVec.toNat_ofBool, BitVec.toNat_ofNat]

@[simp] theorem sign_pack (neg : Bool) (m : Nat) : sign (pack neg m) = neg := by
  rw [sign_eq, pack_toNat]
  cases neg <;> simp
  omega

theorem expField_pack (neg : Bool) {e f : Nat} (he : e < 2 ^ 11) (hf : f < 2 ^ 52) :
    expField (pack neg (e * 2 ^ 52 + f)) = e := by
  rw [expField_eq, pack_toNat]
  cases neg <;> simp <;> omega

theorem fracField_pack (neg : Bool) (e : Nat) {f : Nat} (hf : f < 2 ^ 52) :
    fracField (pack neg (e * 2 ^ 52 + f)) = f := by
  rw [fracField_eq, pack_toNat]
  cases neg <;> simp <;> omega

theorem pack_not (neg : Bool) (m : Nat) : pack (!neg) m = pack neg m ^^^ 0x8000000000000000#64 := by
  have h : pack neg m ^^^ 0x8000000000000000#64 =
      (BitVec.ofBool neg ++ BitVec.ofNat 63 m) ^^^ (BitVec.ofBool true ++ 0#63) := rfl
  rw [h, BitVec.xor_append, BitVec.ofBool_xor_ofBool, Bool.xor_true, BitVec.xor_zero, pack]

theorem expField_lt (x : F64) : expField x < 2 ^ 11 := (x.extractLsb' 52 11).isLt

theorem pack_fields (x : F64) : pack (sign x) (expField x * 2 ^ 52 + fracField x) = x := by
  apply BitVec.eq_of_toNat_eq
  have hx := x.isLt
  rw [pack_toNat, sign_eq, expField_eq, fracField_eq]
  obtain h | h := le_or_gt (2 ^ 63) x.toNat
  · rw [decide_eq_true h, Bool.toNat_true]
    omega
  · rw [decide_eq_false h.not_ge, Bool.toNat_false]
    omega

/-- The opposite value: the sign bit inverted, the other fields kept. -/
theorem flip_eq_pack (x : F64) :
    x ^^^ 0x8000000000000000#64 = pack (!sign x) (expField x * 2 ^ 52 + fracField x) := by
  rw [pack_not, pack_fields]

@[simp] theorem sign_flip (x : F64) : sign (x ^^^ 0x8000000000000000#64) = !sign x := by
  rw [flip_eq_pack, sign_pack]

@[simp] theorem expField_flip (x : F64) : expField (x ^^^ 0x8000000000000000#64) = expField x := by
  rw [flip_eq_pack, expField_pack _ (expField_lt x) (fracField_lt x)]

@[simp] theorem fracField_flip (x : F64) : fracField (x ^^^ 0x8000000000000000#64) = fracField x := by
  rw [flip_eq_pack, fracField_pack _ _ (fracField_lt x)]

/-! ### The value of a pattern -/

/-- The magnitude of a finite value, as a rational number. -/
def magnitude (x : F64) : ℚ := num x / den x

/-- A magnitude with a sign. -/
def signed (neg : Bool) (r : ℚ) : ℚ := if neg then -r else r

theorem signed_mul (a b : Bool) (r s : ℚ) : signed a r * signed b s = signed (a != b) (r * s) := by
  cases a <;> cases b <;> simp [signed]

theorem signed_div (a b : Bool) (r s : ℚ) : signed a r / signed b s = signed (a != b) (r / s) := by
  cases a <;> cases b <;> simp [signed, neg_div, div_neg]

theorem signed_sub (a : Bool) (r s : ℚ) : signed a r - signed a s = signed a (r - s) := by
  cases a <;> simp [signed]; ring

@[simp] theorem abs_signed (a : Bool) (r : ℚ) : |signed a r| = |r| := by
  cases a <;> simp [signed]

/-- A finite value as a rational number. -/
def value (x : F64) : ℚ := signed (sign x) (magnitude x)

theorem magnitude_nonneg (x : F64) : 0 ≤ magnitude x := div_nonneg (Nat.cast_nonneg _) (Nat.cast_nonneg _)

theorem den_pos (x : F64) : 0 < den x := Nat.two_pow_pos _

theorem abs_value (x : F64) : |value x| = magnitude x := by
  rw [value, abs_signed, abs_of_nonneg (magnitude_nonneg x)]

theorem two_zpow_eq (e : ℤ) : (2 : ℚ) ^ e = 2 ^ e.toNat / 2 ^ (-e).toNat := by
  rw [← zpow_natCast, ← zpow_natCast, ← zpow_sub₀ two_ne_zero, Int.toNat_sub_toNat_neg]

theorem magnitude_eq (x : F64) : magnitude x = mantissa x * 2 ^ ((scale x : ℤ) - 1075) := by
  have hup : ((scale x : ℤ) - 1075).toNat = scale x - 1075 := by omega
  have hdown : (-((scale x : ℤ) - 1075)).toNat = 1075 - scale x := by omega
  rw [two_zpow_eq, hup, hdown, magnitude, num, den]
  push_cast
  ring

theorem magnitude_eq_zero {x : F64} (he : expField x = 0) (hf : fracField x = 0) : magnitude x = 0 := by
  rw [magnitude_eq, mantissa, if_pos he, hf, Nat.cast_zero, zero_mul]

/-! ### The order of patterns -/

theorem mantissa_lt (x : F64) : mantissa x < 2 ^ 53 := by
  have := fracField_lt x
  unfold mantissa
  split <;> omega

theorem two_pow_le_mantissa {x : F64} (h : 1 < scale x) : 2 ^ 52 ≤ mantissa x := by
  revert h
  unfold scale mantissa
  split <;> omega

/-- Magnitudes are ordered as the exponent and fraction fields read as one number: first by exponent, then by
significand. -/
theorem mantissa_mul_le {x y : F64} (h : expField x * 2 ^ 52 + fracField x ≤ expField y * 2 ^ 52 + fracField y) :
    mantissa x * 2 ^ scale x ≤ mantissa y * 2 ^ scale y := by
  have hx := fracField_lt x
  have hy := fracField_lt y
  obtain he | he : scale x = scale y ∨ scale x < scale y := by
    unfold scale
    split <;> split <;> omega
  · have hm : mantissa x ≤ mantissa y := by
      revert he
      unfold scale mantissa
      split <;> split <;> omega
    rw [he]
    exact Nat.mul_le_mul_right _ hm
  · have hx1 : 1 ≤ scale x := by
      unfold scale
      split <;> omega
    calc mantissa x * 2 ^ scale x ≤ 2 ^ 53 * 2 ^ scale x := Nat.mul_le_mul_right _ (mantissa_lt x).le
      _ = 2 ^ 52 * 2 ^ (scale x + 1) := by ring
      _ ≤ mantissa y * 2 ^ scale y :=
        Nat.mul_le_mul (two_pow_le_mantissa (hx1.trans_lt he)) (Nat.pow_le_pow_right two_pos he)

theorem magnitude_le {x y : F64} (h : expField x * 2 ^ 52 + fracField x ≤ expField y * 2 ^ 52 + fracField y) :
    magnitude x ≤ magnitude y := by
  have hm : (mantissa x : ℚ) * 2 ^ scale x ≤ mantissa y * 2 ^ scale y := by exact_mod_cast mantissa_mul_le h
  simp only [magnitude_eq, zpow_sub₀ (two_ne_zero' ℚ), zpow_natCast, ← mul_div_assoc]
  exact div_le_div_of_nonneg_right hm (by positivity)

theorem key_eq (x : F64) :
    key x =
      if sign x then -((expField x * 2 ^ 52 + fracField x : ℕ) : ℤ) else (expField x * 2 ^ 52 + fracField x : ℕ) := by
  rw [key, extractLsb'_low63_toNat]

theorem value_le_of_key_le {x y : F64} (h : key x ≤ key y) : value x ≤ value y := by
  rw [key_eq, key_eq] at h
  have hx := magnitude_nonneg x
  have hy := magnitude_nonneg y
  unfold value signed
  cases hsx : sign x <;> cases hsy : sign y <;>
    simp only [hsx, hsy, Bool.false_eq_true, ↓reduceIte] at h ⊢
  · exact magnitude_le (by omega)
  · have hx0 : magnitude x = 0 := magnitude_eq_zero (by omega) (by omega)
    have hy0 : magnitude y = 0 := magnitude_eq_zero (by omega) (by omega)
    rw [hx0, hy0, neg_zero]
  · linarith
  · exact neg_le_neg (magnitude_le (by omega))

/-- The comparison agrees with the order of the values. -/
theorem gt_of_value_lt {x y : F64} (h : value y < value x) : gt x y = true :=
  decide_eq_true (lt_of_not_ge fun hle => absurd (value_le_of_key_le hle) (not_le.mpr h))

/-! ### Rounding -/

theorem fracLog2_bounds {n d : Nat} (hn : 0 < n) (hd : 0 < d) :
    (2 : ℚ) ^ fracLog2 n d ≤ n / d ∧ (n / d : ℚ) < 2 ^ (fracLog2 n d + 1) := by
  have hnQ : (0 : ℚ) < n := Nat.cast_pos.mpr hn
  have hdQ : (0 : ℚ) < d := Nat.cast_pos.mpr hd
  have hnlo : (2 : ℚ) ^ n.log2 ≤ n := by exact_mod_cast Nat.log2_self_le hn.ne'
  have hnhi : (n : ℚ) < 2 ^ (n.log2 + 1) := by exact_mod_cast Nat.lt_log2_self
  have hdlo : (2 : ℚ) ^ d.log2 ≤ d := by exact_mod_cast Nat.log2_self_le hd.ne'
  have hdhi : (d : ℚ) < 2 ^ (d.log2 + 1) := by exact_mod_cast Nat.lt_log2_self
  have hest : ((2 : ℚ) ^ ((n.log2 : ℤ) - d.log2)) = 2 ^ n.log2 / 2 ^ d.log2 := by
    rw [zpow_sub₀ two_ne_zero, zpow_natCast, zpow_natCast]
  have htest (e : ℤ) : n * 2 ^ (-e).toNat < d * 2 ^ e.toNat ↔ (n / d : ℚ) < 2 ^ e := by
    rw [two_zpow_eq, div_lt_div_iff₀ hdQ (by positivity), mul_comm _ (d : ℚ)]
    exact_mod_cast Iff.rfl
  simp only [fracLog2, htest]
  split
  · next hlt =>
    refine ⟨?_, by rwa [sub_add_cancel]⟩
    rw [zpow_sub_one₀ two_ne_zero, hest, ← div_eq_mul_inv, div_div, ← pow_succ]
    exact div_le_div₀ hnQ.le hnlo hdQ hdhi.le
  · next hge =>
    refine ⟨not_lt.mp hge, ?_⟩
    rw [zpow_add_one₀ two_ne_zero, hest, div_mul_eq_mul_div, ← pow_succ]
    exact div_lt_div₀ hnhi hdlo (by positivity) (by positivity)

/-- `round` takes the multiple `q` of `2 ^ e` nearest its argument. -/
theorem round_nearest (neg : Bool) {n d : Nat} (hn : 0 < n) (hd : 0 < d) {e : ℤ}
    (he : e = max (fracLog2 n d - 52) (-1074)) : ∃ q : ℕ, |(q : ℚ) - n / d / 2 ^ e| ≤ 1 / 2 ∧
      round neg n d = pack neg (min ((e + 1074).toNat * 2 ^ 52 + q) infBits) := by
  subst he
  rw [round, if_neg hn.ne']
  refine ⟨_, ?_, rfl⟩
  generalize max (fracLog2 n d - 52) (-1074) = e
  have hb : 0 < d * 2 ^ e.toNat := by positivity
  have hab : (n / d / 2 ^ e : ℚ) = (n * 2 ^ (-e).toNat : ℕ) / (d * 2 ^ e.toNat : ℕ) := by
    rw [two_zpow_eq]
    push_cast
    field_simp
  rw [hab]
  generalize n * 2 ^ (-e).toNat = a
  generalize d * 2 ^ e.toNat = b at hb
  have hbQ : (0 : ℚ) < b := Nat.cast_pos.mpr hb
  have hdiv : (b : ℚ) * (a / b : ℕ) + (a % b : ℕ) = a := by exact_mod_cast Nat.div_add_mod a b
  have hmod : ((a % b : ℕ) : ℚ) < b := by exact_mod_cast Nat.mod_lt a hb
  rw [sub_div' hbQ.ne', abs_div, abs_of_pos hbQ, div_le_iff₀ hbQ, abs_le]
  split
  · next h =>
    have hhalf : (b : ℚ) ≤ 2 * (a % b : ℕ) := by exact_mod_cast (by omega : b ≤ 2 * (a % b))
    push_cast
    constructor <;> linarith
  · next h =>
    have hhalf : 2 * ((a % b : ℕ) : ℚ) ≤ b := by exact_mod_cast (by omega : 2 * (a % b) ≤ b)
    have := Nat.cast_nonneg (α := ℚ) (a % b)
    constructor <;> linarith

/-- A normal value has the hidden bit. -/
theorem pack_normal (neg : Bool) {e f : Nat} (h0 : 0 < e) (he : e < 2047) (hf : f < 2 ^ 52) :
    isFinite (pack neg (e * 2 ^ 52 + f)) = true ∧
    magnitude (pack neg (e * 2 ^ 52 + f)) = (f + 2 ^ 52) * 2 ^ ((e : ℤ) - 1075) := by
  have hexp := expField_pack neg (he.trans (by decide)) hf
  refine ⟨?_, ?_⟩
  · rw [isFinite, hexp]
    exact bne_iff_ne.mpr he.ne
  · rw [magnitude_eq, mantissa, scale, hexp, if_neg h0.ne', if_neg h0.ne', fracField_pack neg e hf]
    push_cast
    rfl

/-- `round` adds the significand `q` to the exponent field: the hidden bit counts the exponent up by one, a carry up to
`2 ^ 53` by two. -/
theorem pack_significand (neg : Bool) {k q : Nat} (hk : k ≤ 2044) (hlo : 2 ^ 52 ≤ q) (hhi : q ≤ 2 ^ 53) :
    isFinite (pack neg (k * 2 ^ 52 + q)) = true ∧
    magnitude (pack neg (k * 2 ^ 52 + q)) = q * 2 ^ ((k : ℤ) - 1074) := by
  obtain rfl | hlt := hhi.eq_or_lt
  · have hsplit : k * 2 ^ 52 + 2 ^ 53 = (k + 2) * 2 ^ 52 + 0 := by omega
    obtain ⟨hfin, hmag⟩ := pack_normal neg (e := k + 2) (f := 0) (by omega) (by omega) (by omega)
    have hexp : ((k + 2 : ℕ) : ℤ) - 1075 = (k : ℤ) - 1074 + 1 := by omega
    rw [hsplit]
    refine ⟨hfin, hmag.trans ?_⟩
    rw [hexp, zpow_add_one₀ two_ne_zero]
    push_cast
    ring
  · obtain ⟨f, rfl⟩ := Nat.exists_eq_add_of_le' hlo
    have hsplit : k * 2 ^ 52 + (f + 2 ^ 52) = (k + 1) * 2 ^ 52 + f := by omega
    obtain ⟨hfin, hmag⟩ := pack_normal neg (e := k + 1) (f := f) (by omega) (by omega) (by omega)
    have hexp : ((k + 1 : ℕ) : ℤ) - 1075 = (k : ℤ) - 1074 := by omega
    rw [hsplit]
    refine ⟨hfin, hmag.trans ?_⟩
    rw [hexp]
    push_cast
    rfl

/-- Zero, or within the range of the normal values: neither underflow nor overflow. -/
def Normal (r : ℚ) : Prop := r = 0 ∨ 2 ^ (-1022 : ℤ) ≤ |r| ∧ |r| < 2 ^ (1023 : ℤ)

/-- `x` is finite and approximates `r` with relative error at most `ε`. -/
def Near (ε : ℚ) (x : F64) (r : ℚ) : Prop := isFinite x = true ∧ |value x - r| ≤ ε * |r|

theorem significand_bounds {q : ℕ} {r : ℚ} (hq : |q - r| ≤ 1 / 2) (hlo : 2 ^ 52 ≤ r) (hhi : r < 2 ^ 53) :
    2 ^ 52 ≤ q ∧ q ≤ 2 ^ 53 := by
  obtain ⟨hq1, hq2⟩ := abs_le.mp hq
  have h1 : (2 ^ 52 : ℕ) < (q + 1 : ℚ) := by push_cast; linarith
  have h2 : (q : ℚ) < (2 ^ 53 + 1 : ℕ) := by push_cast; linarith
  have h1' : 2 ^ 52 < q + 1 := by exact_mod_cast h1
  exact ⟨Nat.le_of_lt_succ h1', Nat.le_of_lt_succ (by exact_mod_cast h2)⟩

theorem Near.mono {ε δ r : ℚ} {x : F64} (h : Near ε x r) (hδ : ε ≤ δ) : Near δ x r :=
  ⟨h.1, h.2.trans (mul_le_mul_of_nonneg_right hδ (abs_nonneg r))⟩

/-- In the normal range `round` has relative error at most half a unit in the last place (R14, D43). -/
theorem round_magnitude (neg : Bool) {n d : Nat} (hn : 0 < n) (hd : 0 < d)
    (hlo : (2 : ℚ) ^ (-1022 : ℤ) ≤ n / d) (hhi : (n / d : ℚ) < 2 ^ (1023 : ℤ)) :
    isFinite (round neg n d) = true ∧ sign (round neg n d) = neg ∧
    |magnitude (round neg n d) - n / d| ≤ 2 ^ (-53 : ℤ) * (n / d) := by
  obtain ⟨hL, hL'⟩ := fracLog2_bounds hn hd
  have hmin : -1022 < fracLog2 n d + 1 := (zpow_lt_zpow_iff_right₀ one_lt_two).mp (hlo.trans_lt hL')
  have hmax : fracLog2 n d < 1023 := (zpow_lt_zpow_iff_right₀ one_lt_two).mp (hL.trans_lt hhi)
  obtain ⟨k, hk⟩ := Int.eq_ofNat_of_zero_le (by omega : 0 ≤ fracLog2 n d + 1022)
  obtain ⟨q, hq, hround⟩ := round_nearest neg hn hd (e := k - 1074) (by omega)
  have hunit : (0 : ℚ) < 2 ^ ((k : ℤ) - 1074) := by positivity
  have hk52 : fracLog2 n d = (52 : ℕ) + ((k : ℤ) - 1074) := by omega
  have hk53 : fracLog2 n d + 1 = (53 : ℕ) + ((k : ℤ) - 1074) := by omega
  rw [hk52, zpow_add₀ two_ne_zero, zpow_natCast] at hL
  rw [hk53, zpow_add₀ two_ne_zero, zpow_natCast] at hL'
  obtain ⟨hqlo, hqhi⟩ := significand_bounds hq ((le_div_iff₀ hunit).mpr hL) ((div_lt_iff₀ hunit).mpr hL')
  have hexp : ((k : ℤ) - 1074 + 1074).toNat = k := by omega
  have hkmax : k ≤ 2044 := by omega
  obtain ⟨hfin, hmag⟩ := pack_significand neg hkmax hqlo hqhi
  rw [hround, hexp, min_eq_left (by unfold infBits; omega)]
  refine ⟨hfin, sign_pack .., ?_⟩
  calc |magnitude (pack neg (k * 2 ^ 52 + q)) - n / d|
      = |(q : ℚ) - n / d / 2 ^ ((k : ℤ) - 1074)| * 2 ^ ((k : ℤ) - 1074) := by
        have hfactor : (q : ℚ) * 2 ^ ((k : ℤ) - 1074) - n / d =
            (q - n / d / 2 ^ ((k : ℤ) - 1074)) * 2 ^ ((k : ℤ) - 1074) := by
          rw [sub_mul, div_mul_cancel₀ _ hunit.ne']
        rw [hmag, hfactor, abs_mul, abs_of_pos hunit]
    _ ≤ 1 / 2 * 2 ^ ((k : ℤ) - 1074) := mul_le_mul_of_nonneg_right hq hunit.le
    _ = 2 ^ (-53 : ℤ) * (2 ^ 52 * 2 ^ ((k : ℤ) - 1074)) := by rw [← mul_assoc]; norm_num
    _ ≤ 2 ^ (-53 : ℤ) * (n / d) := mul_le_mul_of_nonneg_left hL (by positivity)

theorem round_near (neg : Bool) {n d : Nat} (hd : 0 < d) (h : Normal (signed neg (n / d))) :
    Near (2 ^ (-53 : ℤ)) (round neg n d) (signed neg (n / d)) := by
  obtain rfl | hn := n.eq_zero_or_pos
  · have hround : round neg 0 d = pack neg (0 * 2 ^ 52 + 0) := if_pos rfl
    have hexp : expField (round neg 0 d) = 0 := hround ▸ expField_pack neg (by decide) (by decide)
    have hfrac : fracField (round neg 0 d) = 0 := hround ▸ fracField_pack neg 0 (by decide)
    refine ⟨by rw [isFinite, hexp]; rfl, ?_⟩
    rw [value, magnitude_eq_zero hexp hfrac]
    simp [signed]
  · have hpos : (0 : ℚ) < n / d := by positivity
    rw [Normal, ← abs_eq_zero, abs_signed, abs_of_pos hpos] at h
    obtain ⟨hlo, hhi⟩ := h.resolve_left hpos.ne'
    obtain ⟨hfin, hsign, herr⟩ := round_magnitude neg hn hd hlo hhi
    refine ⟨hfin, ?_⟩
    rwa [value, hsign, signed_sub, abs_signed, abs_signed, abs_of_pos hpos]

/-! ### The operations -/

theorem isNaN_of_isFinite {x : F64} (h : isFinite x = true) : isNaN x = false := by
  rw [isFinite, bne_iff_ne] at h
  rw [isNaN, beq_eq_false_iff_ne.mpr h, Bool.false_and]

theorem isInf_of_isFinite {x : F64} (h : isFinite x = true) : isInf x = false := by
  rw [isFinite, bne_iff_ne] at h
  rw [isInf, beq_eq_false_iff_ne.mpr h, Bool.false_and]

theorem num_pos {y : F64} (h : value y ≠ 0) : 0 < num y := by
  refine Nat.pos_of_ne_zero fun h0 => h ?_
  rw [← abs_eq_zero, abs_value, magnitude, h0, Nat.cast_zero, zero_div]

theorem isZero_of_value_ne_zero {y : F64} (h : value y ≠ 0) : isZero y = false := by
  by_contra hz
  rw [Bool.not_eq_false, isZero, Bool.and_eq_true, beq_iff_eq, beq_iff_eq] at hz
  exact h (by rw [← abs_eq_zero, abs_value, magnitude_eq_zero hz.1 hz.2])

theorem mul_eq_round {x y : F64} (hx : isFinite x = true) (hy : isFinite y = true) :
    mul x y = round (sign x != sign y) (num x * num y) (den x * den y) := by
  simp [mul, isNaN_of_isFinite, isInf_of_isFinite, hx, hy]

theorem div_eq_round {x y : F64} (hx : isFinite x = true) (hy : isFinite y = true) (hy0 : value y ≠ 0) :
    div x y = round (sign x != sign y) (num x * den y) (den x * num y) := by
  simp [div, isNaN_of_isFinite, isInf_of_isFinite, isZero_of_value_ne_zero, hx, hy, hy0]

theorem ofInt_near {i : ℤ} (h : Normal i) : Near (2 ^ (-53 : ℤ)) (ofInt i) i := by
  have hi : signed (decide (i < 0)) ((i.natAbs : ℚ) / (1 : ℕ)) = i := by
    rw [Nat.cast_one, div_one, Nat.cast_natAbs, Int.cast_abs, signed]
    split
    · next h => rw [abs_of_neg (by simpa using h), neg_neg]
    · next h => rw [abs_of_nonneg (by simpa using h)]
  have hnear := round_near (decide (i < 0)) (n := i.natAbs) one_pos (hi.symm ▸ h)
  rwa [hi] at hnear

theorem mul_near {x y : F64} (hx : isFinite x = true) (hy : isFinite y = true) (h : Normal (value x * value y)) :
    Near (2 ^ (-53 : ℤ)) (mul x y) (value x * value y) := by
  have hv : value x * value y = signed (sign x != sign y) ((num x * num y : ℕ) / (den x * den y : ℕ)) := by
    rw [value, value, signed_mul, magnitude, magnitude, div_mul_div_comm, Nat.cast_mul, Nat.cast_mul]
  rw [mul_eq_round hx hy, hv]
  exact round_near _ (Nat.mul_pos (den_pos x) (den_pos y)) (hv ▸ h)

theorem div_near {x y : F64} (hx : isFinite x = true) (hy : isFinite y = true) (hy0 : value y ≠ 0)
    (h : Normal (value x / value y)) : Near (2 ^ (-53 : ℤ)) (div x y) (value x / value y) := by
  have hv : value x / value y = signed (sign x != sign y) ((num x * den y : ℕ) / (den x * num y : ℕ)) := by
    rw [value, value, signed_div, magnitude, magnitude, div_div_div_eq, Nat.cast_mul, Nat.cast_mul]
  rw [div_eq_round hx hy hy0, hv]
  exact round_near _ (Nat.mul_pos (den_pos x) (num_pos hy0)) (hv ▸ h)

/-! ### How the relative error grows -/

/-- Zero, or so far within the range of the normal values that a small relative error does not leave it. -/
def Moderate (r : ℚ) : Prop := r = 0 ∨ 2 ^ (-100 : ℤ) ≤ |r| ∧ |r| ≤ 2 ^ (100 : ℤ)

theorem Moderate.normal_of_close {r v : ℚ} (hr : Moderate r) (h : |v - r| ≤ 1 / 2 * |r|) : Normal v := by
  obtain rfl | ⟨hlo, hhi⟩ := hr
  · exact .inl (by simpa using h)
  · obtain ⟨hv, hv'⟩ := abs_le.mp ((abs_abs_sub_abs_le v r).trans h)
    have hmin : (2 : ℚ) ^ (-1022 : ℤ) ≤ 2 ^ (-100 - 1 : ℤ) := zpow_le_zpow_right₀ one_le_two (by decide)
    have hmax : (2 : ℚ) ^ (100 + 1 : ℤ) ≤ 2 ^ (1023 : ℤ) := zpow_le_zpow_right₀ one_le_two (by decide)
    rw [zpow_sub_one₀ two_ne_zero] at hmin
    rw [zpow_add_one₀ two_ne_zero] at hmax
    refine .inr ⟨?_, ?_⟩
    · calc (2 : ℚ) ^ (-1022 : ℤ) ≤ 2 ^ (-100 : ℤ) * 2⁻¹ := hmin
        _ ≤ |r| * 2⁻¹ := mul_le_mul_of_nonneg_right hlo (by positivity)
        _ ≤ |v| := by linarith only [hv]
    · calc |v| ≤ |r| * (3 / 2) := by linarith only [hv']
        _ ≤ 2 ^ (100 : ℤ) * (3 / 2) := mul_le_mul_of_nonneg_right hhi (by positivity)
        _ < 2 ^ (100 : ℤ) * 2 := mul_lt_mul_of_pos_left (by norm_num) (by positivity)
        _ ≤ 2 ^ (1023 : ℤ) := hmax

theorem Moderate.normal {r : ℚ} (hr : Moderate r) : Normal r :=
  hr.normal_of_close (by rw [sub_self, abs_zero]; positivity)

/-- One more rounded operation by a factor `c` adds at most `2 ^ -52` to the relative error. -/
theorem Near.step {ε r c : ℚ} {x z : F64} (hx : Near ε x r) (hε : ε ≤ 1 / 2) (hrc : Moderate (r * c))
    (hz : Normal (value x * c) → Near (2 ^ (-53 : ℤ)) z (value x * c)) : Near (ε + 2 ^ (-52 : ℤ)) z (r * c) := by
  have hscaled : |value x * c - r * c| ≤ ε * |r * c| := by
    rw [← sub_mul, abs_mul, abs_mul, ← mul_assoc]
    exact mul_le_mul_of_nonneg_right hx.2 (abs_nonneg c)
  have hhalf : |value x * c - r * c| ≤ 1 / 2 * |r * c| :=
    hscaled.trans (mul_le_mul_of_nonneg_right hε (abs_nonneg _))
  obtain ⟨hfin, herr⟩ := hz (hrc.normal_of_close hhalf)
  have hsize : |value x * c| ≤ 2 * |r * c| := by
    linarith [abs_sub_abs_le_abs_sub (value x * c) (r * c), abs_nonneg (r * c)]
  refine ⟨hfin, ?_⟩
  calc |value z - r * c| ≤ |value z - value x * c| + |value x * c - r * c| := abs_sub_le ..
    _ ≤ 2 ^ (-53 : ℤ) * (2 * |r * c|) + ε * |r * c| :=
      add_le_add (herr.trans (mul_le_mul_of_nonneg_left hsize (by positivity))) hscaled
    _ = (ε + 2 ^ (-52 : ℤ)) * |r * c| := by norm_num; ring

theorem Near.mul {ε r : ℚ} {x y : F64} (hx : Near ε x r) (hε : ε ≤ 1 / 2) (hy : isFinite y = true)
    (h : Moderate (r * value y)) : Near (ε + 2 ^ (-52 : ℤ)) (mul x y) (r * value y) :=
  hx.step hε h (mul_near hx.1 hy)

theorem Near.div {ε r : ℚ} {x y : F64} (hx : Near ε x r) (hε : ε ≤ 1 / 2) (hy : isFinite y = true)
    (hy0 : value y ≠ 0) (h : Moderate (r / value y)) : Near (ε + 2 ^ (-52 : ℤ)) (div x y) (r / value y) := by
  rw [div_eq_mul_inv] at h ⊢
  refine hx.step hε h ?_
  rw [← div_eq_mul_inv]
  exact div_near hx.1 hy hy0

/-! ### The nearest integer -/

theorem add_half_ediv_eq {n d : ℕ} {i : ℤ} (hd : 0 < d) (h : |(n / d : ℚ) - i| < 1 / 2) :
    (2 * (n : ℤ) + d) / (2 * d) = i := by
  have hdQ : (0 : ℚ) < d := Nat.cast_pos.mpr hd
  obtain ⟨hlo, hhi⟩ := abs_lt.mp h
  have hlo' : (i - 1 / 2 : ℚ) * d ≤ n := ((lt_div_iff₀ hdQ).mp (by linarith)).le
  have hhi' : (n : ℚ) < (i + 1 / 2) * d := (div_lt_iff₀ hdQ).mp (by linarith)
  have hlo2 : (i * (2 * d) : ℚ) ≤ 2 * n + d := by linarith
  have hhi2 : (2 * n + d : ℚ) < i * (2 * d) + 2 * d := by linarith
  exact (Int.ediv_eq_iff_of_pos (by omega)).mpr ⟨by exact_mod_cast hlo2, by exact_mod_cast hhi2⟩

/-- An integer closer than a half is what `roundHalfAway` answers. -/
theorem roundHalfAway_eq {x : F64} {i : ℤ} (h : |value x - i| < 1 / 2) : roundHalfAway x = i := by
  rw [value, signed] at h
  unfold roundHalfAway
  push_cast
  cases hs : sign x with
  | false =>
    rw [hs, if_neg Bool.false_ne_true] at h
    exact add_half_ediv_eq (den_pos x) h
  | true =>
    have hneg : |magnitude x - (-i : ℤ)| < 1 / 2 := by
      rwa [hs, if_pos rfl, ← abs_neg, neg_sub', neg_neg, ← Int.cast_neg] at h
    rw [if_pos rfl, add_half_ediv_eq (den_pos x) hneg, neg_neg]

/-! ### The opposite value -/

theorem round_not {neg : Bool} {n d : Nat} : round (!neg) n d = round neg n d ^^^ 0x8000000000000000#64 := by
  simp only [round, pack_not]
  split <;> rfl

theorem num_flip (x : F64) : num (x ^^^ 0x8000000000000000#64) = num x := by simp [num, mantissa, scale]

theorem den_flip (x : F64) : den (x ^^^ 0x8000000000000000#64) = den x := by simp [den, scale]

theorem isFinite_flip (x : F64) : isFinite (x ^^^ 0x8000000000000000#64) = isFinite x := by simp [isFinite]

theorem ofInt_neg {i : ℤ} (h : i ≠ 0) : ofInt (-i) = ofInt i ^^^ 0x8000000000000000#64 := by
  have hs : decide (-i < 0) = !decide (i < 0) := by
    rw [← decide_not]
    exact decide_eq_decide.mpr (by omega)
  rw [ofInt, hs, Int.natAbs_neg, round_not, ofInt]

theorem mul_flip {x y : F64} (hx : isFinite x = true) (hy : isFinite y = true) :
    mul (x ^^^ 0x8000000000000000#64) y = mul x y ^^^ 0x8000000000000000#64 := by
  rw [mul_eq_round hx hy, mul_eq_round ((isFinite_flip x).trans hx) hy, num_flip, den_flip, sign_flip, ← round_not]
  simp

theorem div_flip {x y : F64} (hx : isFinite x = true) (hy : isFinite y = true) (hy0 : value y ≠ 0) :
    div (x ^^^ 0x8000000000000000#64) y = div x y ^^^ 0x8000000000000000#64 := by
  rw [div_eq_round hx hy hy0, div_eq_round ((isFinite_flip x).trans hx) hy hy0, num_flip, den_flip, sign_flip,
    ← round_not]
  simp

end Fp

/-! ### Scaling a code -/

@[simp] theorem isFinite_fullScale (g : Gain) : Fp.isFinite (fullScale g) = true := by cases g <;> rfl

@[simp] theorem isFinite_f64_32768 : Fp.isFinite f64_32768 = true := rfl

theorem value_f64_32768 : Fp.value f64_32768 = 2 ^ 15 := by decide +kernel

theorem fullScale_bounds (g : Gain) : 1 / 4 ≤ Fp.value (fullScale g) ∧ Fp.value (fullScale g) ≤ 8 := by
  cases g <;> decide +kernel

theorem value_f64_32768_ne_zero : Fp.value f64_32768 ≠ 0 := by
  rw [value_f64_32768]
  positivity

theorem value_fullScale_pos (g : Gain) : 0 < Fp.value (fullScale g) := by
  linarith [fullScale_bounds g]

theorem abs_toInt_le (raw : Word) : |(raw.toInt : ℚ)| ≤ 2 ^ 15 := by
  have hlo := raw.le_toInt
  have hhi := raw.toInt_lt
  have h : |raw.toInt| ≤ 2 ^ 15 := abs_le.mpr (by omega)
  exact_mod_cast h

/-- A code times a factor that is neither tiny nor huge meets neither underflow nor overflow. -/
theorem moderate_code (raw : Word) {c : ℚ} (hlo : 1 / 2 ^ 20 ≤ c) (hhi : c ≤ 2 ^ 20) : Fp.Moderate (raw.toInt * c) := by
  obtain h0 | h0 := eq_or_ne raw.toInt 0
  · exact .inl (by rw [h0, Int.cast_zero, zero_mul])
  · have hc : 0 < c := lt_of_lt_of_le (by positivity) hlo
    have hone : (1 : ℚ) ≤ |(raw.toInt : ℚ)| := by exact_mod_cast Int.one_le_abs h0
    rw [Fp.Moderate, abs_mul, abs_of_pos hc]
    refine .inr ⟨?_, ?_⟩
    · calc (2 : ℚ) ^ (-100 : ℤ) ≤ 1 * (1 / 2 ^ 20) := by norm_num
        _ ≤ |(raw.toInt : ℚ)| * c := mul_le_mul hone hlo (by positivity) (by positivity)
    · calc |(raw.toInt : ℚ)| * c ≤ 2 ^ 15 * 2 ^ 20 := mul_le_mul (abs_toInt_le raw) hhi hc.le (by positivity)
        _ ≤ 2 ^ (100 : ℤ) := by norm_num

theorem moderate_toInt (raw : Word) : Fp.Moderate raw.toInt := by
  simpa using moderate_code raw (c := 1) (by norm_num) (by norm_num)

theorem ofInt_toInt_near (raw : Word) : Fp.Near (2 ^ (-53 : ℤ)) (Fp.ofInt raw.toInt) raw.toInt :=
  Fp.ofInt_near (moderate_toInt raw).normal

theorem code_mul_fullScale_near (raw : Word) (g : Gain) :
    Fp.Near (2 ^ (-51 : ℤ)) (Fp.mul (Fp.ofInt raw.toInt) (fullScale g)) (raw.toInt * Fp.value (fullScale g)) := by
  obtain ⟨hlo, hhi⟩ := fullScale_bounds g
  have hproduct := (ofInt_toInt_near raw).mul (by norm_num) (isFinite_fullScale g)
    (moderate_code raw (by linarith) (by linarith))
  exact hproduct.mono (by norm_num)

/-- A scaled code is the exact voltage up to the rounded operations (R97). -/
theorem rawToVolts_near (raw : Word) (g : Gain) :
    Fp.Near (2 ^ (-50 : ℤ)) (rawToVolts raw g) (raw.toInt * (Fp.value (fullScale g) / 2 ^ 15)) := by
  obtain ⟨hlo, hhi⟩ := fullScale_bounds g
  have hquotient := (code_mul_fullScale_near raw g).div (y := f64_32768) (by norm_num) isFinite_f64_32768
    value_f64_32768_ne_zero (by
      rw [value_f64_32768, mul_div_assoc]
      exact moderate_code raw (by linarith) (by linarith))
  rw [value_f64_32768, mul_div_assoc] at hquotient
  exact hquotient.mono (by norm_num)

/-- The quotient that `voltsToCode` rounds is the scaled code up to two more rounded operations (R101). -/
theorem quotient_near (raw : Word) (g : Gain) :
    Fp.Near (2 ^ (-48 : ℤ)) (Fp.div (Fp.mul (rawToVolts raw g) f64_32768) (fullScale g)) raw.toInt := by
  obtain ⟨hlo, hhi⟩ := fullScale_bounds g
  have hfs : Fp.value (fullScale g) ≠ 0 := (value_fullScale_pos g).ne'
  have hback : raw.toInt * (Fp.value (fullScale g) / 2 ^ 15) * Fp.value f64_32768 =
      raw.toInt * Fp.value (fullScale g) := by
    rw [value_f64_32768, mul_assoc, div_mul_cancel₀ _ (by positivity)]
  have hproduct := (rawToVolts_near raw g).mul (y := f64_32768) (by norm_num) isFinite_f64_32768
    (hback ▸ moderate_code raw (by linarith) (by linarith))
  rw [hback] at hproduct
  have hquotient := hproduct.div (by norm_num) (isFinite_fullScale g) hfs
    ((mul_div_cancel_right₀ _ hfs).symm ▸ moderate_toInt raw)
  rw [mul_div_cancel_right₀ _ hfs] at hquotient
  exact hquotient.mono (by norm_num)

/-- The rounding errors come to less than a quarter of the step between two codes. -/
theorem rawToVolts_error (raw : Word) (g : Gain) :
    |Fp.value (rawToVolts raw g) - raw.toInt * (Fp.value (fullScale g) / 2 ^ 15)| ≤
      1 / 4 * (Fp.value (fullScale g) / 2 ^ 15) := by
  have hstep : 0 < Fp.value (fullScale g) / 2 ^ 15 := div_pos (value_fullScale_pos g) (by positivity)
  obtain ⟨-, herr⟩ := rawToVolts_near raw g
  rw [abs_mul, abs_of_pos hstep, ← mul_assoc] at herr
  refine herr.trans (mul_le_mul_of_nonneg_right ?_ hstep.le)
  calc (2 : ℚ) ^ (-50 : ℤ) * |(raw.toInt : ℚ)| ≤ 2 ^ (-50 : ℤ) * 2 ^ 15 :=
        mul_le_mul_of_nonneg_left (abs_toInt_le raw) (by positivity)
    _ ≤ 1 / 4 := by norm_num

theorem value_rawToVolts_lt {r1 r2 : Word} (h : r1.toInt < r2.toInt) (g : Gain) :
    Fp.value (rawToVolts r1 g) < Fp.value (rawToVolts r2 g) := by
  have hpos : 0 < Fp.value (fullScale g) / 2 ^ 15 := div_pos (value_fullScale_pos g) (by positivity)
  have hstep : (r1.toInt + 1 : ℚ) * (Fp.value (fullScale g) / 2 ^ 15) ≤ r2.toInt * (Fp.value (fullScale g) / 2 ^ 15) :=
    mul_le_mul_of_nonneg_right (by exact_mod_cast h) hpos.le
  obtain ⟨-, h1⟩ := abs_le.mp (rawToVolts_error r1 g)
  obtain ⟨h2, -⟩ := abs_le.mp (rawToVolts_error r2 g)
  linarith

theorem rawToVolts_ends (g : Gain) :
    rawToVolts 0x8000#16 g = fullScale g ||| 0x8000000000000000#64 ∧ rawToVolts 0#16 g = 0#64 := by
  cases g <;> decide +kernel

/-- The opposite code scales to the opposite voltage. -/
theorem rawToVolts_neg {raw : Word} (h0 : raw ≠ 0#16) (hmin : raw ≠ 0x8000#16) (g : Gain) :
    rawToVolts (-raw) g = rawToVolts raw g ^^^ 0x8000000000000000#64 := by
  obtain ⟨hcode, -⟩ := ofInt_toInt_near raw
  obtain ⟨hproduct, -⟩ := code_mul_fullScale_near raw g
  have hne : raw.toInt ≠ 0 := fun h => h0 (BitVec.eq_of_toInt_eq h)
  rw [rawToVolts, sext16, BitVec.toInt_neg_of_ne_intMin hmin, Fp.ofInt_neg hne, Fp.mul_flip hcode (isFinite_fullScale g),
    Fp.div_flip hproduct isFinite_f64_32768 value_f64_32768_ne_zero, rawToVolts]

/-! ### The code of a voltage -/

theorem codeOfQuotient_of_isFinite {q : F64} (h : Fp.isFinite q = true) :
    codeOfQuotient q = BitVec.ofInt 16 (clampInt (-32768) 32767 (Fp.roundHalfAway q)) := by
  simp [codeOfQuotient, Fp.isInf_of_isFinite h]

theorem toInt_codeOfQuotient {q : F64} (h : Fp.isFinite q = true) :
    (codeOfQuotient q).toInt = min 32767 (max (-32768) (Fp.roundHalfAway q)) := by
  rw [codeOfQuotient_of_isFinite h, clampInt, BitVec.toInt_ofInt_eq_self (by decide)] <;> omega

theorem voltsCode_rawToVolts (raw : Word) (g : Gain) : voltsCode (rawToVolts raw g) g = raw := by
  obtain ⟨hfin, herr⟩ := quotient_near raw g
  have hclose : (2 : ℚ) ^ (-48 : ℤ) * |(raw.toInt : ℚ)| < 1 / 2 := by
    calc (2 : ℚ) ^ (-48 : ℤ) * |(raw.toInt : ℚ)| ≤ 2 ^ (-48 : ℤ) * 2 ^ 15 :=
          mul_le_mul_of_nonneg_left (abs_toInt_le raw) (by positivity)
      _ < 1 / 2 := by norm_num
  have hlo := raw.le_toInt
  have hhi := raw.toInt_lt
  apply BitVec.eq_of_toInt_eq
  rw [voltsCode, toInt_codeOfQuotient hfin, Fp.roundHalfAway_eq (herr.trans_lt hclose)]
  omega

theorem voltsCode_ends (g : Gain) : voltsCode (fullScale g) g = 0x7FFF#16 ∧
    voltsCode (fullScale g ||| 0x8000000000000000#64) g = 0x8000#16 ∧
    voltsCode 0#64 g = 0#16 ∧ voltsCode 0x8000000000000000#64 g = 0#16 := by
  cases g <;> decide +kernel

/-! ### The commands -/

theorem exec_scaleToVoltage_of_ok {i : Nat} {g : Gain} (h : checkGain i = .ok g) (raw : Word) (s : State) :
    exec (.scaleToVoltage raw i) s = .next (s.succeed 0x22#8 (.volts (rawToVolts raw g))) := by
  rw [exec_eq_run, routine, scaleToVoltageRoutine, h]
  rfl

theorem checkVoltsAndGain_of_ok {i : Nat} {g : Gain} (h : checkGain i = .ok g) (v : F64) :
    checkVoltsAndGain v i = checkVolts v g := by
  rw [checkVoltsAndGain, h]
  rfl

theorem exec_voltsToCode_of_ok {i : Nat} {g : Gain} {v : F64} (h : checkGain i = .ok g)
    (hv : Fp.isFinite v = true) (s : State) :
    exec (.voltsToCode v i) s = .next (s.succeed 0x23#8 (.code (voltsCode v g))) := by
  rw [exec_eq_run, routine, voltsToCodeRoutine, checkVoltsAndGain_of_ok h, checkVolts, if_pos hv]
  rfl

theorem exec_voltsToCode_error {i : Nat} {v : F64} {what : Culprit} (h : checkVoltsAndGain v i = .error what)
    (s : State) : exec (.voltsToCode v i) s = .next (s.raise 0x23#8 (.config what)) := by
  rw [exec_eq_run]
  exact run_checked_error h ..

theorem checkGain_error {i : Nat} (h : 6 ≤ i) : checkGain i = .error .gain :=
  (checkGain_checks i).error (decide_eq_true h)

/-! ### The statements -/

/-- Settles O25: the gain of an index has its full scale in the table; the two ends are evaluated, and the sign passes
through both operations. -/
theorem scaleToVoltageFollowsTheLaw : Obligations.ScaleToVoltageFollowsTheLaw := by
  intro s raw
  refine ⟨fun i g fs h => ?_, fun i hi => ?_⟩
  · have hrow : checkGain i = .ok g ∧ fullScale g = fs := by
      simp only [List.mem_cons, List.not_mem_nil, or_false, Prod.mk.injEq] at h
      obtain ⟨rfl, rfl, rfl⟩ | ⟨rfl, rfl, rfl⟩ | ⟨rfl, rfl, rfl⟩ | ⟨rfl, rfl, rfl⟩ | ⟨rfl, rfl, rfl⟩ |
        ⟨rfl, rfl, rfl⟩ := h <;> exact ⟨rfl, rfl⟩
    obtain ⟨hg, rfl⟩ := hrow
    obtain ⟨hlow, hzero⟩ := rawToVolts_ends g
    exact ⟨exec_scaleToVoltage_of_ok hg raw s, rfl, fun h => h ▸ hlow, fun h => h ▸ hzero,
      fun h0 hmin => rawToVolts_neg h0 hmin g⟩
  · rw [exec_eq_run]
    exact run_checked_error (checkGain_error hi) ..

/-- Settles O26: the values are ordered, and the comparison orders patterns as their values. -/
theorem scalingIsStrictlyIncreasing : Obligations.ScalingIsStrictlyIncreasing := fun g r1 r2 h =>
  ⟨(rawToVolts_near r1 g).1, (rawToVolts_near r2 g).1, Fp.gt_of_value_lt (value_rawToVolts_lt h g)⟩

/-- Settles O27: the quotient is closer than a half to the code, which lies in the `i16` range. -/
theorem voltsToCodeUndoesScaling : Obligations.VoltsToCodeUndoesScaling := by
  intro s raw i g h
  rw [exec_voltsToCode_of_ok h (rawToVolts_near raw g).1, voltsCode_rawToVolts]

/-- Settles O28: finite volts complete with the code of the quotient, and the checks name the gain before the volts. -/
theorem voltsToCodeCompletesOnFiniteVolts : Obligations.VoltsToCodeCompletesOnFiniteVolts := by
  intro s v i
  refine ⟨fun g hg hv => ⟨voltsCode v g, exec_voltsToCode_of_ok hg hv s, ?_⟩, fun hi => ?_, fun hi hv => ?_⟩
  · obtain ⟨hfull, hnegFull, hzero, hnegZero⟩ := voltsCode_ends g
    refine ⟨fun q hq hfin => ?_, ?_, ?_, ?_⟩
    · subst hq
      exact toInt_codeOfQuotient hfin
    · rintro rfl
      exact hfull
    · rintro rfl
      exact hnegFull
    · rintro (rfl | rfl)
      exacts [hzero, hnegZero]
  · exact exec_voltsToCode_error (checkVoltsAndGain_error (checkGain_error hi) v) s
  · obtain ⟨g, hg, -⟩ := (checkGain_checks i).ok (decide_eq_false (Nat.not_le.mpr hi))
    refine exec_voltsToCode_error ?_ s
    rw [checkVoltsAndGain_of_ok hg, checkVolts, hv]
    rfl

end Sys2Proof.Machine

section
/-! The conversion engine: the handle made and killed, the two commands that start a conversion, the poll loop and its
bounds, the Conversion read, the delay, and the converter's own step with the comparator it updates. -/

namespace Sys2Proof.Machine

/-! ### Commands whose requirement and operands pass, or do not -/

theorem run_require_refused {c : Bool} (h : c = false) (r : Refusal) (body : Routine) (begun : Bool) (s : State) :
    (require c r body).run begun s = .refused r := by
  rw [require, h]
  rfl

theorem run_checked_ok {α : Type} {check : Except Culprit α} {x : α} (h : check = .ok x) (op : Byte)
    (body : α → Routine) (begun : Bool) (s : State) : (checked op check body).run begun s = (body x).run begun s := by
  rw [h]
  rfl

theorem run_checkedGainIdle_ok {i : Nat} {g : Gain} (h : checkGain i = .ok g) (op : Byte) (body : Gain → Routine)
    (begun : Bool) (s : State) : (checkedGainIdle op i body).run begun s = (body g).run begun s := by
  rw [checkedGainIdle, h]

/-- A live handle with an Idle or Ready engine may begin an acquisition command (R108). -/
theorem Handle.acquires {h : Handle} (hl : h.live = true) (he : h.engine = .idle ∨ h.engine = .ready) :
    (h.live && h.engine.free) = true := by
  rcases he with he | he <;> simp [hl, he, Engine.free]

/-- An address index below 4 is the strap at 0x48 plus the index (R39, R66). -/
theorem Strap.ofIndex_of_lt {i : Nat} (h : i < 4) :
    ∃ a, Strap.ofIndex i = some a ∧ a.addr = BitVec.ofNat 7 (0x48 + i) := by
  match i with
  | 0 => exact ⟨.gnd, rfl, rfl⟩
  | 1 => exact ⟨.vdd, rfl, rfl⟩
  | 2 => exact ⟨.sda, rfl, rfl⟩
  | 3 => exact ⟨.scl, rfl, rfl⟩

/-- Settles O30: the address check gives the strap at 0x48 plus the index, or fails; `deinit` requires a live handle. -/
theorem initAndDeinitMakeAndKillTheHandle : Obligations.InitAndDeinitMakeAndKillTheHandle := by
  refine ⟨fun s i h => ?_, fun _ _ h => run_checked_error (checkAddress_error h) .., fun _ h => run_require h ..,
    fun _ h => run_require_refused h ..⟩
  obtain ⟨a, hi, ha⟩ := Strap.ofIndex_of_lt h
  rw [← ha]
  exact run_checked_ok (by rw [hi, orCulprit]) ..

/-! ### What a state has been served -/

theorem Devices.get_set_self (ds : Devices) (a : Strap) (d : Option Device) : (ds.set a d).get a = d := by
  rw [Devices.get_set, if_pos rfl]

@[simp] theorem Env.after_after (e : Env) (n m n' m' : Nat) :
    (e.after n m).after n' m' = e.after (n + n') (m + m') := by
  simp [Env.after]

/-- A queue that begins with `n` equal answers begins with fewer of them. -/
theorem startsWith_mono {α : Type} {x : α} {xs : List α} {n k : Nat} (h : ∃ rest, xs = List.replicate n x ++ rest)
    (hk : k ≤ n) : ∃ rest, xs = List.replicate k x ++ rest := by
  obtain ⟨rest, rfl⟩ := h
  obtain ⟨j, rfl⟩ := Nat.exists_eq_add_of_le hk
  exact ⟨List.replicate j x ++ rest, by rw [List.replicate_add, List.append_assoc]⟩

/-- The equal answers left once the first `n` have been taken. -/
theorem startsWith_drop {α : Type} {x : α} {xs : List α} {n k : Nat}
    (h : ∃ rest, xs = List.replicate (n + k) x ++ rest) : ∃ rest, xs.drop n = List.replicate k x ++ rest := by
  obtain ⟨rest, rfl⟩ := h
  exact ⟨rest, by rw [List.replicate_add, List.append_assoc, List.drop_left' List.length_replicate]⟩

theorem Env.acks.mono {e : Env} {n k : Nat} (h : e.acks n) (hk : k ≤ n) : e.acks k := startsWith_mono h hk

theorem Env.quiet.mono {e : Env} {n k : Nat} (h : e.quiet n) (hk : k ≤ n) : e.quiet k := startsWith_mono h hk

theorem Env.acks.after {e : Env} {n j k : Nat} (h : e.acks n) (hk : j + k ≤ n) (m : Nat) : (e.after j m).acks k :=
  startsWith_drop (h.mono hk)

theorem Env.quiet.after {e : Env} {n j k : Nat} (h : e.quiet n) (hk : j + k ≤ n) (m : Nat) : (e.after m j).quiet k :=
  startsWith_drop (h.mono hk)

@[simp] theorem State.served_served (s : State) (a : Strap) (d d' : Device) (n m n' m' : Nat)
    (sent sent' : List Transfer) : (s.served a d n m sent).served a d' n' m' sent' =
      s.served a d' (n + n') (m + m') (sent' ++ sent) := by
  simp [State.served]

@[simp] theorem State.served_get (s : State) (a : Strap) (d : Device) (n m : Nat) (sent : List Transfer) :
    (s.served a d n m sent).devices.get a = some d :=
  Devices.get_set_self ..

/-- A quiet gap takes its entry from the queue and changes nothing else. -/
theorem State.gap_served {s : State} {a : Strap} {d : Device} (hd : s.devices.get a = some d) (hg : s.env.quiet 1) :
    s.gap = s.served a d 0 1 [] := by
  obtain ⟨gs, hg : s.env.gaps = [] :: gs⟩ := hg
  rw [State.gap_quiet hg]
  simp [State.served, Env.after, hg, ← hd]

/-- `MemRead` on an acknowledging, quiet bus (R79). -/
theorem run_memRead_served {s : State} {a : Strap} {d : Device} (p : Reg) (onFail : HostError → Routine)
    (onRead : Word → Routine) (hd : s.devices.get a = some d) (hb : s.env.acks 2) (hg : s.env.quiet 1)
    (ho : p = .config → d.mode ≠ .continuous) :
    (memRead a.addr p onFail onRead).run false s =
      (onRead (d.value (decide (d.mode = .powerDown)) p)).run true
        (s.served a (Device.afterRead { d with ptr := p }) 2 1
          [sentAck (.rd a.addr) (wordBytes (d.value (decide (d.mode = .powerDown)) p)),
            sentAck (.ptr a.addr p) []]) := by
  obtain ⟨fs, hb : s.env.frames = .ack :: .ack :: fs⟩ := hb
  obtain ⟨gs, hg : s.env.gaps = [] :: gs⟩ := hg
  rw [run_memRead_ack p onFail onRead hd hb hg ho]
  simp [State.served, Env.after, hb, hg]

/-- A frame of the running session on an acknowledging bus, where it reads no free OS bit (R73). -/
theorem State.perform_tx_served {s : State} {f : Frame} {a : Strap} {d : Device} (hf : f.addr = a.addr)
    (hd : s.devices.get a = some d) (hb : s.env.acks 1) (ho : readsFreeOs s.devices f = false) :
    s.perform (.tx f) =
      (.bus (.ok (d.reply false f)), s.served a (d.deliver f) 1 0 [sentAck f (d.reply false f)]) := by
  obtain ⟨fs, hb : s.env.frames = .ack :: fs⟩ := hb
  rw [State.perform_tx_ack hf hd hb ho]
  simp [State.served, Env.after, hb]

/-- A gap takes no answer of the bus to this session's frames. -/
theorem Env.acks.gap {s : State} {n : Nat} (h : s.env.acks n) : s.gap.env.acks n := h

/-- `MemRead` on an acknowledging bus, whatever the other agents do in the gap between its frames: the word is what the
device, as the gap leaves it, sends (R46, R79). -/
theorem run_memRead_over_gap {s : State} {a : Strap} {d e : Device} (p : Reg) (onFail : HostError → Routine)
    (onRead : Word → Routine) (hd : s.devices.get a = some d) (hb : s.env.acks 2)
    (he : (s.served a { d with ptr := p } 1 0 [sentAck (.ptr a.addr p) []]).gap.devices.get a = some e)
    (hm : e.mode ≠ .continuous) :
    (memRead a.addr p onFail onRead).run false s = (onRead (e.readValue false)).run true
      ((s.served a { d with ptr := p } 1 0 [sentAck (.ptr a.addr p) []]).gap.served a e.afterRead 1 0
        [sentAck (.rd a.addr) (wordBytes (e.readValue false))]) := by
  have hacks : (s.env.after 1 0).acks 1 := hb.after (by decide) 0
  rw [memRead, Routine.run_first, State.perform_tx_served (f := .ptr a.addr p) rfl hd (hb.mono (by decide)) rfl]
  dsimp only [Reply.outcome]
  rw [Routine.run_next, Routine.run_first]
  dsimp only [Device.deliver, Device.reply]
  rw [State.perform_tx_served (f := .rd a.addr) rfl he hacks.gap (by simp [readsFreeOs, he, hm])]
  simp [Device.reply, Device.deliver]

/-- The Config write of a command that takes the engine through Configuring to `e`, on an acknowledging bus (R92,
R108). -/
theorem run_writeConfig_served {s : State} {a : Strap} {d : Device} (v : Word) (e : Engine)
    (onFail : HostError → Routine) (onAck : Routine) (hs : s.Serves a d) (hb : s.env.acks 1) :
    (writeConfig v (some e) onFail onAck).run false s = onAck.run true
      { s.served a (Device.write { d with ptr := .config } .config v) 1 0 [sentAck (.wr a.addr .config v) []] with
        handle := (s.handle.commit v).setEngine e } := by
  obtain ⟨-, ha, hd⟩ := hs
  obtain ⟨fs, hb : s.env.frames = .ack :: fs⟩ := hb
  rw [run_writeConfig_ack v (some e) onFail onAck ha hd hb]
  simp [State.served, Env.after, hb, Handle.afterConfigWrite, Handle.commit, Handle.setEngine]

/-! ### Starting a conversion (R111, R115) -/

/-- A word with OS = 1 and MODE = 1 leaves a single conversion running, whatever ran before (R105). -/
theorem modeAfterWrite_of_trigger {v : Word} (hos : v.getLsbD 15 = true) (hmode : v.getLsbD 8 = true) (m : ConvMode) :
    modeAfterWrite v m = .singleConverting := by
  cases m <;> simp [modeAfterWrite, hos, hmode]

theorem modeAfterWrite_singleShotWord (base : Word) (c : Channel) (g : Gain) (m : ConvMode) :
    modeAfterWrite (singleShotWord base c g) m = .singleConverting := by
  obtain ⟨h15, -, -, h8, -⟩ := buildWord_fields { fieldsOf base with
    trigger := true, channel := c, gain := g, mode := .singleShot }
  exact modeAfterWrite_of_trigger h15 h8 m

theorem modeAfterWrite_continuousWord (base : Word) (c : Channel) (g : Gain) (r : DataRate) (m : ConvMode) :
    modeAfterWrite (continuousWord base c g r) m = .continuous := by
  obtain ⟨-, -, -, h8, -⟩ := buildWord_fields { fieldsOf base with
    trigger := false, channel := c, gain := g, mode := .continuous, dataRate := r }
  exact modeAfterWrite_eq_continuous.mpr h8

theorem gain_singleShotWord (base : Word) (c : Channel) (g : Gain) : (fieldsOf (singleShotWord base c g)).gain = g := by
  rw [singleShotWord, fieldsOf_buildWord]

theorem gain_continuousWord (base : Word) (c : Channel) (g : Gain) (r : DataRate) :
    (fieldsOf (continuousWord base c g r)).gain = g := by
  rw [continuousWord, fieldsOf_buildWord]

theorem checkChannelGain_ok {ci gi : Nat} {c : Channel} {g : Gain} (hc : checkChannel ci = .ok c)
    (hg : checkGain gi = .ok g) : checkChannelGain ci gi = .ok (c, g) := by
  rw [checkChannelGain, hc, hg]
  rfl

theorem checkChannelGainRate_ok {ci gi ri : Nat} {c : Channel} {g : Gain} {r : DataRate}
    (hc : checkChannel ci = .ok c) (hg : checkGain gi = .ok g) (hr : checkDataRate ri = .ok r) :
    checkChannelGainRate ci gi ri = .ok (c, g, r) := by
  rw [checkChannelGainRate, hc, hg, hr]
  rfl

/-- Settles O32: the write's effect on the device, with the mode and the gain of the word. -/
theorem startSingleShotTriggersOneConversion : Obligations.StartSingleShotTriggersOneConversion := by
  rintro s a d ci gi c g _ hs he hb hc hg rfl
  rw [exec_eq_run, routine, startSingleShotRoutine, run_require (Handle.acquires hs.1 he),
    run_checked_ok (checkChannelGain_ok hc hg), run_writeConfig_served _ _ _ _ hs hb, Device.write_config,
    modeAfterWrite_singleShotWord, Handle.commit, gain_singleShotWord]
  rfl

/-- Settles O33: the write's effect on the device, with the mode and the gain of the word. -/
theorem startContinuousFreeRuns : Obligations.StartContinuousFreeRuns := by
  rintro s a d ci gi ri c g r _ hs he hb hc hg hr rfl
  rw [exec_eq_run, routine, startContinuousRoutine, run_require (Handle.acquires hs.1 he),
    run_checked_ok (checkChannelGainRate_ok hc hg hr), run_writeConfig_served _ _ _ _ hs hb, Device.write_config,
    modeAfterWrite_continuousWord, Handle.commit, gain_continuousWord]
  rfl

/-! ### The Conversion read (R114) -/

/-- Settles O37: the quiet read of Conversion, with the latch clear of `afterRead`. -/
theorem readConversionReturnsTheSample : Obligations.ReadConversionReturnsTheSample := by
  rintro s a d gi g ⟨hl, ha, hd⟩ he hg hb hq
  rw [exec_eq_run, routine, readConversionRoutine, run_require (Handle.acquires hl he), run_checkedGainIdle_ok hg,
    readSample, ha, run_memRead_served (p := .conversion) (hd := hd) (hb := hb) (hg := hq) (ho := nofun),
    Device.afterRead_eq]
  simp only [true_and]
  rfl

/-! ### The poll loop (R113) -/

/-- A converting engine and a legal rate let `pollUntilReady` begin its loop. -/
theorem exec_pollUntilReady_of_ok {s : State} {ri : Nat} {r : DataRate} (hl : s.handle.live = true)
    (he : s.handle.engine = .converting) (hr : checkDataRate ri = .ok r) :
    exec (.pollUntilReady ri) s = (pollLoop r (maxPolls r) s.handle.addr (maxPolls r)).run false s := by
  rw [exec_eq_run, routine, pollUntilReadyRoutine, run_require (by simp [hl, he]), run_checked_ok hr]

/-- A later poll comes after a gap. -/
theorem run_pollLoop_next (r : DataRate) (n : Nat) (x : Addr) (left : Nat) (s : State) :
    (pollLoop r n x (left + 1)).run true s = (pollLoop r n x (left + 1)).run false s.gap := rfl

section

variable {s : State} {a : Strap} {d : Device} (hd : s.devices.get a = some d) (r : DataRate) (n left : Nat)
include hd

/-- A poll with a quiet gap between its frames: OS reads 1 where the device is in PowerDown, which ends the loop, and 0
in the midst of a single conversion (R104). -/
theorem run_pollLoop_poll {os : Bool} (hos : decide (d.mode = .powerDown) = os) (hm : d.mode ≠ .continuous)
    (hb : s.env.acks 2) (hg : s.env.quiet 1) :
    (pollLoop r n a.addr (left + 1)).run false s =
      (if os then .set (.engine .ready) (succeed Opcode.pollUntilReady .ready) else pollLoop r n a.addr left).run true
        (s.served a { d with ptr := .config } 2 1 (pollFrames a (d.value os .config))) := by
  rw [pollLoop, run_memRead_served .config _ _ hd hb hg (fun _ => hm), hos, d.value_config_os]
  rfl

theorem run_pollLoop_ready (hm : d.mode = .powerDown) (hb : s.env.acks 2) (hg : s.env.quiet 1) :
    (pollLoop r n a.addr (left + 1)).run false s =
      .next (((s.served a { d with ptr := .config } 2 1 (pollFrames a (1#1 ++ d.cfg))).setEngine .ready).succeed 0x31#8
        .ready) :=
  run_pollLoop_poll hd r n left (decide_eq_true hm) (by simp [hm]) hb hg

theorem run_pollLoop_silent (hm : d.mode = .singleConverting) (hb : s.env.acks 2) (hg : s.env.quiet 1) :
    (pollLoop r n a.addr (left + 1)).run false s =
      (pollLoop r n a.addr left).run true
        (s.served a { d with ptr := .config } 2 1 (pollFrames a (0#1 ++ d.cfg))) :=
  run_pollLoop_poll hd r n left (decide_eq_false (by simp [hm])) (by simp [hm]) hb hg

end

/-- `m` polls that read `v`, newest frame first. -/
def manyPolls (a : Strap) (v : Word) (m : Nat) : List Transfer := (List.replicate m (pollFrames a v)).flatten

theorem manyPolls_succ (a : Strap) (v : Word) (m : Nat) :
    manyPolls a v (m + 1) = manyPolls a v m ++ pollFrames a v := by
  simp [manyPolls, List.replicate_succ']

theorem length_manyPolls (a : Strap) (v : Word) (m : Nat) : (manyPolls a v m).length = 2 * m := by
  simp [manyPolls, pollFrames, Nat.mul_comm]

/-- While the conversion goes on, one poll and `m` more read OS = 0, with quiet gaps between their frames. -/
theorem run_pollLoop_silents {s : State} {a : Strap} {d : Device} (hd : s.devices.get a = some d)
    (hm : d.mode = .singleConverting) (r : DataRate) (n left : Nat) {m : Nat} (hb : s.env.acks (2 * m + 2))
    (hg : s.env.quiet (2 * m + 1)) :
    (pollLoop r n a.addr (left + m + 1)).run false s = (pollLoop r n a.addr left).run true
      (s.served a { d with ptr := .config } (2 * m + 2) (2 * m + 1) (manyPolls a (0#1 ++ d.cfg) (m + 1))) := by
  induction m generalizing s d with
  | zero => exact run_pollLoop_silent hd r n left hm hb hg
  | succ m ih =>
    have hgap : (s.env.after 2 1).quiet 1 := hg.after (by omega) 2
    have hrest := ih (s := s.served a { d with ptr := .config } 2 2 (pollFrames a (0#1 ++ d.cfg)))
      (d := { d with ptr := .config }) (State.served_get ..) hm (hb.after (by omega) 2) (hg.after (by omega) 2)
    rw [State.served_served, ← manyPolls_succ, Nat.add_comm 2, Nat.add_comm 2] at hrest
    rw [run_pollLoop_silent hd r n (left + (m + 1)) hm (hb.mono (by omega)) (hg.mono (by omega)), ← Nat.add_assoc,
      run_pollLoop_next, State.gap_served (State.served_get ..) hgap, State.served_served]
    exact hrest

/-- Settles O34: the first poll. -/
theorem pollSeesAFinishedConversion : Obligations.PollSeesAFinishedConversion := by
  rintro s a d ri ⟨hl, ha, hd⟩ he hm hri hb hg
  obtain ⟨r, hr, -⟩ := (checkDataRate_checks ri).ok (decide_eq_false (Nat.not_le.mpr hri))
  obtain ⟨n, hn⟩ : ∃ n, maxPolls r = n + 1 := ⟨_, Nat.add_comm ..⟩
  rw [exec_pollUntilReady_of_ok hl he hr, hn, ha, run_pollLoop_ready hd r _ n hm hb hg]
  rfl

/-- Settles O35: every poll reads OS = 0, and after the last the loop gives up. -/
theorem pollTimesOutOnASilentDevice : Obligations.PollTimesOutOnASilentDevice := by
  rintro s a d ri r ⟨hl, ha, hd⟩ he hm hr hb hg
  obtain ⟨m, hn⟩ : ∃ m, maxPolls r = 0 + m + 1 := ⟨_, by rw [Nat.zero_add]; exact Nat.add_comm ..⟩
  have hexec := exec_pollUntilReady_of_ok hl he hr
  rw [ha] at hexec
  have hpolls := run_pollLoop_silents hd hm r (maxPolls r) 0 (m := m) (hb.mono (by omega)) (hg.mono (by omega))
  rw [← hn] at hpolls
  exact ⟨_, _, hexec.trans hpolls, rfl, rfl, rfl, rfl, rfl, by rw [length_manyPolls, hn, Nat.zero_add]⟩

/-! ### The frames of a command (R171) -/

/-- How many frames a controller step puts on the bus. -/
def Action.frames : Action → Nat
  | .tx _ => 1
  | .config _ _ => 1
  | .arm => 0
  | .look => 0
  | .clearFlag => 0
  | .waits _ => 0

/-- The routine sends at most so many frames, whatever the answers. -/
def Routine.SendsAtMost : Routine → Nat → Prop
  | .done _ _, _ => True
  | .hold, _ => True
  | .refuse _, _ => True
  | .set _ rest, n => rest.SendsAtMost n
  | .ask a next, n => ∃ k, k + a.frames = n ∧ ∀ r, (next r).SendsAtMost k

/-- Of the frames `sent`, how many are the running session's controller's. -/
def ownFrames (sent : List Transfer) : Nat := (sent.filter fun x => x.sender = .controller).length

theorem ownFrames_append (sent sent' : List Transfer) :
    ownFrames (sent ++ sent') = ownFrames sent + ownFrames sent' := by
  simp [ownFrames]

theorem State.perform_sentBetween (s : State) (a : Action) :
    ∃ sent, SentBetween s (s.perform a).2 sent ∧ ownFrames sent ≤ a.frames := by
  refine ⟨_, rfl, (List.length_filter_le ..).trans ?_⟩
  cases a <;> exact Nat.le_refl _

/-- No frame of a gap is the running session's. -/
theorem State.gap_sentBetween (s : State) : ∃ sent, SentBetween s s.gap sent ∧ ownFrames sent = 0 := by
  obtain ⟨-, -, -, -, sent, hw, ho⟩ := s.agentSteps_keeps s.env.nextGap.1
  refine ⟨sent, hw, List.length_eq_zero_iff.mpr (List.filter_eq_nil_iff.mpr fun x hx => ?_)⟩
  simp [ho x hx]

theorem Routine.run_sendsAtMost {m : Routine} {n : Nat} {begun : Bool} {s t : State} (hm : m.SendsAtMost n)
    (h : m.run begun s = .next t) : ∃ sent, SentBetween s t sent ∧ ownFrames sent ≤ n := by
  induction m generalizing n begun s with
  | done op a => cases h; exact ⟨[], rfl, n.zero_le⟩
  | hold => cases h; exact ⟨[], rfl, n.zero_le⟩
  | refuse r => cases h
  | set u rest ih => exact ih (s := s.update u) hm h
  | ask a next ih =>
    obtain ⟨k, rfl, hm⟩ := hm
    have step (s' : State) (h : (next (s'.perform a).1).run true (s'.perform a).2 = .next t) :
        ∃ sent, SentBetween s' t sent ∧ ownFrames sent ≤ k + a.frames := by
      obtain ⟨first, hfirst, hle⟩ := s'.perform_sentBetween a
      obtain ⟨rest, hrest, hle'⟩ := ih _ (hm _) h
      refine ⟨rest ++ first, by rw [SentBetween, hrest, hfirst, List.append_assoc], ?_⟩
      rw [ownFrames_append]
      exact Nat.add_le_add hle' hle
    cases begun with
    | false => exact step s h
    | true =>
      obtain ⟨others, hothers, hzero⟩ := s.gap_sentBetween
      obtain ⟨sent, hsent, hle⟩ := step s.gap h
      exact ⟨sent ++ others, by rw [SentBetween, hsent, hothers, List.append_assoc],
        by rwa [ownFrames_append, hzero]⟩

/-- `MemRead` sends two frames more than what follows it. -/
theorem sendsAtMost_memRead {x : Addr} {p : Reg} {onFail : HostError → Routine} {onRead : Word → Routine} {n : Nat}
    (hf : ∀ e k, (onFail e).SendsAtMost k) (hv : ∀ v, (onRead v).SendsAtMost n) :
    (memRead x p onFail onRead).SendsAtMost (n + 2) := by
  refine ⟨n + 1, rfl, fun r1 => ?_⟩
  dsimp only
  split
  · exact hf ..
  · refine ⟨n, rfl, fun r2 => ?_⟩
    dsimp only
    split
    · exact hf ..
    · exact hv _

theorem sendsAtMost_raiseIdle (op : Byte) (e : HostError) (n : Nat) : (raiseIdle op e).SendsAtMost n := trivial

theorem sendsAtMost_pollLoop (r : DataRate) (n : Nat) (x : Addr) (left : Nat) :
    (pollLoop r n x left).SendsAtMost (2 * left) := by
  induction left with
  | zero => exact sendsAtMost_raiseIdle ..
  | succ k ih =>
    refine sendsAtMost_memRead (sendsAtMost_raiseIdle _) fun v => ?_
    split
    · trivial
    · exact ih

/-- Only the Conversion read that follows a set flag sends frames (R136). -/
theorem sendsAtMost_alertLoop (g : Gain) (k n : Nat) (x : Addr) (left : Nat) :
    (alertLoop g k n x left).SendsAtMost 2 := by
  induction left with
  | zero => exact sendsAtMost_raiseIdle ..
  | succ left ih =>
    refine ⟨2, rfl, fun r => ?_⟩
    dsimp only
    split
    · exact ⟨2, rfl, fun _ => sendsAtMost_memRead (sendsAtMost_raiseIdle _) fun _ => trivial⟩
    · exact ih

/-- A routine that refuses nowhere ends, within its bound of frames. -/
theorem Routine.run_bounded {m : Routine} (h : m.Ends) {n : Nat} (hm : m.SendsAtMost n) (s : State) :
    ∃ t sent, m.run false s = .next t ∧ SentBetween s t sent ∧ ownFrames sent ≤ n := by
  obtain ⟨t, ht⟩ := run_ends h false s
  obtain ⟨sent, hsent⟩ := Routine.run_sendsAtMost hm ht
  exact ⟨t, sent, ht, hsent⟩

/-- Settles O36: both loops refuse nowhere, and each poll is two frames, each look none. -/
theorem waitingCommandsAreBounded : Obligations.WaitingCommandsAreBounded := by
  intro s hl
  refine ⟨fun ri r he hr => ?_, fun k gi he => ?_⟩
  · rw [exec_pollUntilReady_of_ok hl he hr]
    exact Routine.run_bounded (pollLoop_ends ..) (sendsAtMost_pollLoop ..) s
  · rw [exec_eq_run, routine, waitForAlertRoutine, run_require (Handle.acquires hl he), checkedGainIdle]
    split
    · exact Routine.run_bounded (m := raiseIdle _ _) trivial (sendsAtMost_raiseIdle ..) s
    · exact Routine.run_bounded (alertLoop_ends ..) (sendsAtMost_alertLoop ..) s

/-! ### The delay (R117, R159) -/

section

variable {s : State} (hl : s.handle.live = true) (assume : Bool) (ms : Nat)
include hl

/-- A delay that is not holding and need not begin to hold returns. -/
theorem delayWith_of_short (hh : s.host.holding = false) (hs : (assume && settleMs s.handle.dataRate ≤ ms) = false) :
    delayWith assume ms s = .next (s.succeed 0x34#8 .unit) := by
  rw [delayWith, delayRoutine, run_require hl, hh, hs]
  rfl

/-- With ASSUME_SETTLE_SUFFICIENT false no delay is long enough to hold (R7, R117). -/
theorem exec_delay (hh : s.host.holding = false) : exec (.delay ms) s = .next (s.succeed 0x34#8 .unit) :=
  delayWith_of_short hl false ms hh rfl

/-- A delay that holds, or is long enough to, goes by whether it must still wait. -/
theorem delayWith_of_long (hs : (s.host.holding || (assume && settleMs s.handle.dataRate ≤ ms)) = true) :
    delayWith assume ms s =
      if stillWaits s.devices s.handle s.host.holding then .next { s with host := { s.host with holding := true } }
      else .next (s.succeed 0x34#8 .unit) := by
  rw [delayWith, delayRoutine, run_require hl, hs, if_pos rfl, Routine.run_first]
  show (if stillWaits s.devices s.handle s.host.holding then _ else _ : Routine).run true s = _
  split <;> rfl

end

/-- A live handle's delay that must not wait returns, whether or not it is long enough to hold. -/
theorem delayWith_of_not_waits {s : State} (hl : s.handle.live = true) (assume : Bool) (ms : Nat)
    (hw : stillWaits s.devices s.handle s.host.holding = false) :
    delayWith assume ms s = .next (s.succeed 0x34#8 .unit) := by
  cases hs : s.host.holding || (assume && settleMs s.handle.dataRate ≤ ms) with
  | true => rw [delayWith_of_long hl assume ms hs, hw]; rfl
  | false =>
    obtain ⟨hh, hs⟩ := Bool.or_eq_false_iff.mp hs
    exact delayWith_of_short hl assume ms hh hs

theorem State.Serves.stillWaits {s : State} {a : Strap} {d : Device} (h : s.Serves a d) (begun : Bool) :
    stillWaits s.devices s.handle begun = ((begun || d.converting) && !d.fresh) := by
  obtain ⟨-, ha, hd⟩ := h
  simp [Machine.stillWaits, ha, hd]

/-- Settles O38: whether the delay is long enough, and whether it must still wait. -/
theorem delayReturnsOrHolds : Obligations.DelayReturnsOrHolds := by
  refine ⟨fun s ms hl hh => exec_delay hl ms hh, ?_⟩
  rintro s a d ms _ assume hs rfl
  have hl := hs.1
  have hwaits := hs.stillWaits s.host.holding
  refine ⟨fun hh hm hf hle => ?_, fun hh hf => ?_, fun hh hlt => ?_, fun hh hm => ?_, fun hf => ?_⟩
  · rw [delayWith_of_long hl true ms (by rw [hh]; exact decide_eq_true hle), hwaits, hf]
    simp [Device.converting, hm]
  · have hhost : { s.host with holding := true } = s.host := by rw [← hh]
    rw [delayWith_of_long hl assume ms (by rw [hh]; rfl), hwaits, hf, hh, hhost]
    rfl
  · have hshort : decide (settleMs s.handle.dataRate ≤ ms) = false := decide_eq_false (Nat.not_le.mpr hlt)
    exact delayWith_of_short hl assume ms hh (by rw [hshort, Bool.and_false])
  · exact delayWith_of_not_waits hl assume ms (by rw [hwaits, hh, Device.converting, hm]; rfl)
  · exact delayWith_of_not_waits hl assume ms (by rw [hwaits, hf, Bool.not_true, Bool.and_false])

/-! ### The converter's step (R106, R121) -/

/-- A sample changes the queue counter and the comparator's output alone (R121). -/
theorem Device.compareSample_eq (d : Device) (x : Word) (al : Bool) (cn : Nat) : d.compareSample x al cn =
    { d with cnt := (d.compareSample x al cn).cnt, alert := (d.compareSample x al cn).alert } := by
  unfold Device.compareSample
  split
  · rfl
  · split <;> rfl

/-- The comparator reads neither the stored sample nor `fresh`. -/
theorem Device.compareSample_stored (d : Device) (y x : Word) (f : Bool) (al : Bool) (cn : Nat) :
    Device.compareSample { d with conversion := y, fresh := f } x al cn =
      { d.compareSample x al cn with conversion := y, fresh := f } := by
  have hdepth : Device.depth { d with conversion := y, fresh := f } = d.depth := rfl
  have hready : Device.readyCombination { d with conversion := y, fresh := f } = d.readyCombination := rfl
  rw [Device.compareSample, Device.compareSample, hdepth, hready]
  cases d.depth with
  | none => rfl
  | some n => cases d.readyCombination <;> rfl

/-- A completed conversion stores the sample, sets `fresh`, ends a single conversion, and compares the sample (R106). -/
theorem Device.complete_eq (d : Device) (x : Word) (al : Bool) (cn : Nat) : d.complete x al cn =
    { d with
      conversion := x
      fresh := true
      mode := if d.mode = .singleConverting then .powerDown else d.mode
      cnt := (d.compareSample x al cn).cnt
      alert := (d.compareSample x al cn).alert } := by
  rw [Device.complete, Device.compareSample_stored, Device.compareSample_eq]

/-- The depths of the three COMP_QUE codes that enable the comparator (R61, R120). -/
theorem Device.depth_of_code {d : Device} {n : Nat} (h : d.cfg.extractLsb' 0 2 = 0b00#2 ∧ n = 1 ∨
    d.cfg.extractLsb' 0 2 = 0b01#2 ∧ n = 2 ∨ d.cfg.extractLsb' 0 2 = 0b10#2 ∧ n = 4) : d.depth = some n := by
  obtain ⟨h, rfl⟩ | ⟨h, rfl⟩ | ⟨h, rfl⟩ := h <;> rw [Device.depth, Device.compQue, h] <;> rfl

theorem Device.compareSample_of_disabled {d : Device} (h : d.cfg.extractLsb' 0 2 = 0b11#2) (x : Word) (al : Bool)
    (cn : Nat) : d.compareSample x al cn = { d with cnt := 0, alert := false } := by
  have hq : d.depth = none := by rw [Device.depth, Device.compQue, h]; rfl
  rw [Device.compareSample, hq]

theorem Device.readyCombination_iff {d : Device} :
    d.readyCombination = true ↔ d.high.msb = true ∧ d.low.msb = false := by
  simp [Device.readyCombination, Config.rdyCombinationIsDraw]

/-- R119's trip: above, or in Window mode below. -/
theorem Device.trips_iff {d : Device} {x : Word} : d.trips x = true ↔
    d.high.toInt < x.toInt ∨ d.cfg.getLsbD 4 = true ∧ x.toInt < d.low.toInt := by
  unfold Device.trips Device.window Device.above Device.below
  cases d.cfg.getLsbD 4 <;> simp

/-- The sample clears a non-latching alert short of the depth (R119, R121; log entry 28). -/
def Device.Releases (d : Device) (x : Word) : Prop :=
  d.latching = false ∧ d.trips x = false ∧ d.clears x = true

/-- In Window mode a sample in range releases, in Traditional mode one below and not above. -/
theorem Device.releases_iff {d : Device} {x : Word} : d.Releases x ↔
    d.cfg.getLsbD 2 = false ∧ ¬ d.high.toInt < x.toInt ∧ (d.cfg.getLsbD 4 = true ↔ ¬ x.toInt < d.low.toInt) := by
  rw [Device.Releases, ← Bool.not_eq_true (d.trips x), Device.trips_iff]
  unfold Device.clears Device.latching Device.window Device.below
  cases d.cfg.getLsbD 4 with
  | false => simp
  | true => simpa using fun _ hhigh hlow => ⟨hlow, hhigh⟩

section

variable {d : Device} {n : Nat} (hq : d.depth = some n) (x : Word) (al : Bool) (cn : Nat)
include hq

/-- Under the conversion-ready combination the count is drawn from 0 to the depth (R121). -/
theorem Device.compareSample_cnt_le (hc : d.readyCombination = true) : (d.compareSample x al cn).cnt ≤ n := by
  rw [Device.compareSample, hq]
  dsimp only
  rw [if_pos hc]
  exact Nat.le_of_lt_succ (Nat.mod_lt _ n.succ_pos)

/-- An enabled comparator counts trips up to the depth, asserts there, and short of it clears where released (R121). -/
theorem Device.compareSample_of_depth (hc : d.readyCombination = false) :
    (d.compareSample x al cn).cnt = (if d.trips x then min (d.cnt + 1) n else 0) ∧
    ((d.compareSample x al cn).cnt = n → (d.compareSample x al cn).alert = true) ∧
    ((d.compareSample x al cn).cnt ≠ n → d.Releases x → (d.compareSample x al cn).alert = false) ∧
    ((d.compareSample x al cn).cnt ≠ n → ¬ d.Releases x → (d.compareSample x al cn).alert = d.alert) := by
  rw [Device.compareSample, hq]
  dsimp only
  rw [hc]
  refine ⟨rfl, fun h => if_pos h, fun h hr => ?_, fun h hr => ?_⟩
  · obtain ⟨hl, ht, hcl⟩ := hr
    exact (if_neg h).trans (by simp [hl, ht, hcl])
  · exact (if_neg h).trans (if_neg (by simpa [Device.Releases, and_assoc] using hr))

end

/-- An enabled conversion puts the completed device at its position. -/
theorem State.convert_devices {s : State} {a : Strap} {d : Device} (hd : s.devices.get a = some d)
    (hm : d.mode ≠ .powerDown) (x : Word) (al : Bool) (cn : Nat) :
    (s.convert a x al cn).devices = s.devices.set a (some (d.complete x al cn)) := by
  have hconv : d.converting = true := by simp [Device.converting, hm]
  unfold State.convert
  rw [hd]
  dsimp only
  rw [if_pos hconv]
  split <;> rfl

theorem State.convert_of_powerDown {s : State} {a : Strap} {d : Device} (hd : s.devices.get a = some d)
    (hm : d.mode = .powerDown) (x : Word) (al : Bool) (cn : Nat) : s.convert a x al cn = s := by
  simp [State.convert, hd, Device.converting, hm]

/-- Settles O40: the converter's fields are those of `complete`, and the comparator's go by trip, release and depth. -/
theorem conversionUpdatesTheComparator : Obligations.ConversionUpdatesTheComparator := by
  intro s a d x al cn hd
  refine ⟨fun hm => s.convert_of_powerDown hd hm x al cn, fun hm =>
    ⟨d.complete x al cn, s.convert_devices hd hm x al cn, ?_⟩⟩
  rw [Device.complete_eq]
  refine ⟨rfl, rfl, rfl, rfl, rfl, rfl, fun hs => if_pos hs, fun hc => by rw [hc]; rfl, fun hq => ?disabled,
    fun n hn => ⟨fun hc => ?combination, fun hc above below trip ha hb ht => ?enabled⟩⟩
  case disabled => rw [Device.compareSample_of_disabled hq]; exact ⟨rfl, rfl⟩
  case combination =>
    exact Device.compareSample_cnt_le (Device.depth_of_code hn) x al cn (Device.readyCombination_iff.mpr hc)
  case enabled =>
    obtain ⟨hcnt, hset, hclear, hkeep⟩ := Device.compareSample_of_depth (Device.depth_of_code hn) x al cn
      (by rwa [← Bool.not_eq_true, Device.readyCombination_iff])
    have htrip : trip ↔ d.trips x = true := by rw [ht, ha, hb, Device.trips_iff]
    have hrel : d.Releases x ↔ d.cfg.getLsbD 2 = false ∧ ¬ above ∧ (d.cfg.getLsbD 4 = true ↔ ¬ below) := by
      rw [ha, hb, Device.releases_iff]
    refine ⟨fun h => ?_, fun h => ?_, hset, fun h hl => hkeep h ?_, fun h hl hw hna hnb => hclear h ?_,
      fun h hl hw hab => hkeep h ?_, fun h hl hw hbe hna => hclear h ?_, fun h hl hw hab => hkeep h ?_⟩
    · exact hcnt.trans (if_pos (htrip.mp h))
    · exact hcnt.trans (if_neg (mt htrip.mpr h))
    · intro hr
      obtain ⟨hnl, -⟩ := hrel.mp hr
      rw [hl] at hnl
      cases hnl
    · exact hrel.mpr ⟨hl, hna, iff_of_true hw hnb⟩
    · intro hr
      obtain ⟨-, hna, hw'⟩ := hrel.mp hr
      exact hab.elim hna (hw'.mp hw)
    · exact hrel.mpr ⟨hl, hna, iff_of_false (by rw [hw]; exact Bool.false_ne_true) (not_not_intro hbe)⟩
    · intro hr
      obtain ⟨-, hna, hw'⟩ := hrel.mp hr
      exact hab.elim hna fun hnb => Bool.false_ne_true (hw.symm.trans (hw'.mpr hnb))

/-! ### One single-shot cycle (R118) -/

/-- The device has ended a single conversion of sample `x` under the Config `cfg`, and not been written to since. -/
structure Device.Finished (d : Device) (x : Word) (cfg : BitVec 15) : Prop where
  conversion : d.conversion = x
  mode       : d.mode = .powerDown
  fresh      : d.fresh = true
  cfg        : d.cfg = cfg

/-- The end of a single conversion leaves a finished device, with its pointer where it was. -/
theorem State.convert_finished {s : State} {a : Strap} {d : Device} (hd : s.devices.get a = some d)
    (hm : d.mode = .singleConverting) (x : Word) (al : Bool) (cn : Nat) :
    ∃ e, (s.convert a x al cn).devices.get a = some e ∧ e.Finished x d.cfg ∧ e.ptr = d.ptr := by
  refine ⟨d.complete x al cn, ?_, ?_⟩
  · rw [s.convert_devices hd (by simp [hm]), Devices.get_set_self]
  · rw [Device.complete_eq]
    exact ⟨⟨rfl, if_pos hm, rfl, rfl⟩, rfl⟩

/-- A gap that holds the end of a single conversion. -/
theorem State.gap_finished {s : State} {a : Strap} {d : Device} {x : Word} {al : Bool} {cn : Nat}
    {gs : List (List AgentStep)} (hd : s.devices.get a = some d) (hm : d.mode = .singleConverting)
    (hg : s.env.gaps = [.convert a x al cn] :: gs) :
    s.gap.wire = s.wire ∧ s.gap.env.gaps = gs ∧
    ∃ e, s.gap.devices.get a = some e ∧ e.Finished x d.cfg ∧ e.ptr = d.ptr := by
  obtain ⟨-, -, -, hwire, -⟩ := s.convert_keeps a x al cn
  rw [State.gap_wire, State.gap_env, State.gap_devices, Env.nextGap_cons hg]
  exact ⟨hwire, rfl, s.convert_finished hd hm x al cn⟩

/-- `pollUntilReady`, from the state `t`, has returned Ready in the state `u` after the frames `sent`; the device at `a`
has finished with sample `x`, and the bus acknowledges the two frames of a quiet read. -/
structure ReturnedReady (t u : State) (a : Strap) (x : Word) (cfg : BitVec 15) (sent : List Transfer) : Prop where
  report : u.host.report = some { opcode := some 0x31#8, answer := .done .ready }
  handle : u.handle = t.handle.setEngine .ready
  wire   : SentBetween t u sent
  device : ∃ e, u.devices.get a = some e ∧ e.Finished x cfg
  acks   : u.env.acks 2
  quiet  : u.env.quiet 1

/-- The frames before the state `t` join those after it. -/
theorem ReturnedReady.after {s t u : State} {a : Strap} {x : Word} {cfg : BitVec 15} {first sent : List Transfer}
    (h : ReturnedReady t u a x cfg sent) (hh : t.handle = s.handle) (hw : SentBetween s t first) :
    ReturnedReady s u a x cfg (sent ++ first) where
  report := h.report
  handle := hh ▸ h.handle
  wire   := by rw [SentBetween, h.wire, hw, List.append_assoc]
  device := h.device
  acks   := h.acks
  quiet  := h.quiet

/-- The end of the loop, with its last frames served. -/
theorem State.served_returnedReady {s : State} {a : Strap} {d : Device} {x : Word} {cfg : BitVec 15} {n m : Nat}
    (hf : d.Finished x cfg) (hb : s.env.acks (n + 2)) (hg : s.env.quiet (m + 1)) (sent : List Transfer) :
    ReturnedReady s (((s.served a d n m sent).setEngine .ready).succeed 0x31#8 .ready) a x cfg sent where
  report := rfl
  handle := rfl
  wire   := rfl
  device := ⟨d, s.served_get a d n m sent, hf⟩
  acks   := hb.after (Nat.le_refl _) m
  quiet  := hg.after (Nat.le_refl _) n

/-- The poll of a finished device. -/
theorem run_pollLoop_finished {s : State} {a : Strap} {d : Device} {x : Word} {cfg : BitVec 15}
    (hd : s.devices.get a = some d) (hf : d.Finished x cfg) (r : DataRate) (n left : Nat) (hb : s.env.acks 4)
    (hg : s.env.quiet 2) : ∃ u, (pollLoop r n a.addr (left + 1)).run false s = .next u ∧
      ReturnedReady s u a x cfg (pollFrames a (1#1 ++ cfg)) := by
  obtain ⟨hconversion, hmode, hfresh, rfl⟩ := hf
  have hf' : Device.Finished { d with ptr := .config } x d.cfg := ⟨hconversion, hmode, hfresh, rfl⟩
  exact ⟨_, run_pollLoop_ready hd r n left hmode (hb.mono (by decide)) (hg.mono (by decide)),
    State.served_returnedReady hf' hb hg _⟩

/-- The poll of a device whose single conversion ends between the poll's two frames (R46). -/
theorem run_pollLoop_finishing {s : State} {a : Strap} {d : Device} {x : Word} {al : Bool} {cn : Nat}
    {rest : List (List AgentStep)} (hd : s.devices.get a = some d) (hm : d.mode = .singleConverting) (r : DataRate)
    (n left : Nat) (hb : s.env.acks 4) (hg : s.env.gaps = [.convert a x al cn] :: [] :: rest) :
    ∃ u, (pollLoop r n a.addr (left + 1)).run false s = .next u ∧
      ReturnedReady s u a x d.cfg (pollFrames a (1#1 ++ d.cfg)) := by
  obtain ⟨hwire, hgaps, e, he, hf, hptr⟩ := State.gap_finished (s := s.served a { d with ptr := .config } 1 0
    [sentAck (.ptr a.addr .config) []]) (State.served_get ..) hm hg
  have hv : e.readValue false = 1#1 ++ d.cfg := by
    rw [Device.readValue, hptr, hf.mode, ← hf.cfg]
    rfl
  have hos : (1#1 ++ d.cfg).getLsbD 15 = true := d.value_config_os true
  have hread : e.afterRead = e := if_neg (by simp [hptr])
  have hacks : (s.env.after 1 0).acks (1 + 2) := hb.after (by decide) 0
  have hlast := State.served_returnedReady (a := a) (m := 0) hf hacks.gap ⟨rest, hgaps⟩
    [sentAck (.rd a.addr) (wordBytes (1#1 ++ d.cfg))]
  rw [pollLoop, run_memRead_over_gap .config _ _ hd (hb.mono (by decide)) he (by simp [hf.mode]), hv, if_pos hos, hread]
  exact ⟨_, rfl, hlast.after rfl hwire⟩

/-- The poll loop of a device whose single conversion ends in the gap `j`: `(j + 1) / 2` polls read OS = 0. After an
even gap the next frame is the RD of a poll, after an odd one the PTR of the next poll (R79, log entry 27). -/
theorem run_pollLoop_converting {s : State} {a : Strap} {d : Device} {x : Word} {al : Bool} {cn : Nat} {j m : Nat}
    {rest : List (List AgentStep)} (hd : s.devices.get a = some d) (hm : d.mode = .singleConverting) (r : DataRate)
    (n left : Nat) (hj : m = (j + 1) / 2) (hb : s.env.acks (2 * m + 4))
    (hg : s.env.gaps = List.replicate j [] ++ [.convert a x al cn] :: [] :: [] :: rest) :
    ∃ u, (pollLoop r n a.addr (left + m + 1)).run false s = .next u ∧
      ReturnedReady s u a x d.cfg (pollFrames a (1#1 ++ d.cfg) ++ manyPolls a (0#1 ++ d.cfg) m) := by
  cases m with
  | zero =>
    obtain rfl : j = 0 := by omega
    obtain ⟨u, hu, hready⟩ := run_pollLoop_finishing hd hm r n left hb hg
    exact ⟨u, hu, hready.after rfl rfl⟩
  | succ k =>
    have hquiet : s.env.quiet j := ⟨_, hg⟩
    have hdrop : (s.env.after (2 * k + 2) j).gaps = [.convert a x al cn] :: [] :: [] :: rest := by
      simp [Env.after, hg]
    have hacks (i : Nat) : (s.env.after (2 * k + 2) i).acks 4 := hb.after (by omega) i
    have hleft : left + (k + 1) + 1 = left + 1 + k + 1 := by omega
    rw [hleft, run_pollLoop_silents hd hm r n (left + 1) (hb.mono (by omega)) (hquiet.mono (by omega)),
      run_pollLoop_next]
    obtain rfl | rfl : j = 2 * k + 1 ∨ j = 2 * k + 1 + 1 := by omega
    · obtain ⟨hwire, hgaps, e, he, hf, -⟩ := State.gap_finished (d := { d with ptr := .config })
        (State.served_get s a _ (2 * k + 2) (2 * k + 1) (manyPolls a (0#1 ++ d.cfg) (k + 1))) hm hdrop
      obtain ⟨u, hu, hready⟩ := run_pollLoop_finished he hf r n left (hacks _).gap ⟨rest, hgaps⟩
      exact ⟨u, hu, hready.after rfl hwire⟩
    · have hgap : (s.env.after (2 * k + 2) (2 * k + 1)).quiet 1 := hquiet.after (Nat.le_refl _) _
      rw [State.gap_served (State.served_get ..) hgap, State.served_served]
      obtain ⟨u, hu, hready⟩ := run_pollLoop_finishing (d := { d with ptr := .config }) (State.served_get s a _
        (2 * k + 2 + 0) (2 * k + 1 + 1) ([] ++ manyPolls a (0#1 ++ d.cfg) (k + 1))) hm r n left (hacks _) hdrop
      exact ⟨u, hu, hready.after rfl rfl⟩

/-- The single conversion of sample `x` ends before the first poll, by the steps `before`, or in the gap `j` of the poll
loop; `m` polls read OS = 0. -/
def ConversionEnds (e : Env) (a : Strap) (x : Word) (al : Bool) (cn m : Nat) (before : List AgentStep) : Prop :=
  before = [.convert a x al cn] ∧ m = 0 ∧ e.quiet 2 ∨
  before = [] ∧ ∃ j rest, m = (j + 1) / 2 ∧
    e.gaps = List.replicate j [] ++ [.convert a x al cn] :: [] :: [] :: rest

/-- `pollUntilReady` with the poll that finds the conversion ended within its bound. -/
theorem exec_pollUntilReady_returnedReady {s : State} {a : Strap} {d : Device} {x : Word} {al : Bool} {cn m ri : Nat}
    {r : DataRate} {before : List AgentStep} (hs : s.Serves a d) (he : s.handle.engine = .converting)
    (hm : d.mode = .singleConverting) (hr : checkDataRate ri = .ok r) (hlt : m < maxPolls r)
    (hb : s.env.acks (2 * m + 4)) (hends : ConversionEnds s.env a x al cn m before) :
    ∃ u, exec (.pollUntilReady ri) (s.agentSteps before) = .next u ∧
      ReturnedReady s u a x d.cfg (pollFrames a (1#1 ++ d.cfg) ++ manyPolls a (0#1 ++ d.cfg) m) := by
  obtain ⟨hl, ha, hd⟩ := hs
  obtain ⟨left, hn⟩ : ∃ left, maxPolls r = left + m + 1 := ⟨maxPolls r - m - 1, by omega⟩
  obtain ⟨rfl, rfl, hg⟩ | ⟨rfl, j, rest, hj, hg⟩ := hends
  · show ∃ u, exec (.pollUntilReady ri) (s.convert a x al cn) = .next u ∧ _
    obtain ⟨hhandle, -, henv, hwire, -⟩ := s.convert_keeps a x al cn
    obtain ⟨e, hget, hf, -⟩ := s.convert_finished hd hm x al cn
    rw [exec_pollUntilReady_of_ok (by rw [hhandle, hl]) (by rw [hhandle, he]) hr, hhandle, ha, hn]
    obtain ⟨u, hu, hready⟩ := run_pollLoop_finished hget hf r (left + 0 + 1) left (henv ▸ hb) (henv ▸ hg)
    exact ⟨u, hu, hready.after hhandle hwire⟩
  · show ∃ u, exec (.pollUntilReady ri) s = .next u ∧ _
    rw [exec_pollUntilReady_of_ok hl he hr, ha, hn]
    exact run_pollLoop_converting hd hm r _ left hj hb hg

/-- Settles O39: the trigger, the poll loop up to the end of the conversion, and the read and the delay that follow. -/
theorem singleShotReadCycle : Obligations.SingleShotReadCycle := by
  intro s a d ci gi ri ms c g r w x al cn m before hs he _ hc hg hr hlt hw hb hends
  obtain ⟨hl, ha, -⟩ := id hs
  obtain ⟨t, d', htrigger, hserves, hengine, hgain, hmode, hcfg, henv⟩ : ∃ t d',
      exec (.startSingleShot ci gi) s = .next t ∧ t.Serves a d' ∧ t.handle.engine = .converting ∧
      t.handle.gain = some g ∧ d'.mode = .singleConverting ∧ d'.cfg = w.extractLsb' 0 15 ∧ t.env = s.env.after 1 0 :=
    ⟨_, _, startSingleShotTriggersOneConversion s a d ci gi c g w hs he (hb.mono (by omega)) hc hg hw,
      ⟨hl, ha, Devices.get_set_self ..⟩, rfl, rfl, rfl, rfl, rfl⟩
  have hends' : ConversionEnds t.env a x al cn m before := henv.symm ▸ hends
  obtain ⟨u, hpoll, hreport, hhandle, hwire, ⟨e, hdevice, hf⟩, hacks, hquiet⟩ :=
    exec_pollUntilReady_returnedReady hserves hengine hmode hr hlt (henv ▸ hb.after (by omega) 0) hends'
  obtain ⟨hlive, haddr, hready, hgain⟩ : u.handle.live = true ∧ u.handle.addr = a.addr ∧ u.handle.engine = .ready ∧
      u.handle.gain = some g := by
    obtain ⟨hl, ha, -⟩ := hserves
    rw [hhandle]
    exact ⟨hl, ha, rfl, hgain⟩
  have hread := readConversionReturnsTheSample u a e gi g ⟨hlive, haddr, hdevice⟩ (.inr hready) hg hacks hquiet
  rw [hf.conversion] at hread
  rw [hcfg] at hwire
  exact ⟨t, u, _, htrigger, hpoll, hreport, hready, hwire, hread,
    exec_delay (by exact hlive) ms (by rfl), rfl, rfl, hgain, _, Devices.get_set_self .., rfl, hf.mode, hf.fresh⟩

end Sys2Proof.Machine
end

section
/-! The comparator and the interrupt line: what a conversion does to a latched alert and to the lines that watch it, and
the commands that write the comparator, arm and disarm the line, and wait for an alert. -/

namespace Sys2Proof.Machine

/-! ### A latched alert (R121, R123) -/

/-- The alert is asserted by an enabled, latching comparator, not under the conversion-ready combination: no sample
clears it. -/
structure Device.AlertHeld (d : Device) : Prop where
  enabled  : d.cfg.extractLsb' 0 2 ≠ 0b11#2
  latching : d.cfg.getLsbD 2 = true
  alert    : d.alert = true
  undrawn  : d.readyCombination = false

/-- An enabled comparator has a queue depth (R61, R120). -/
theorem Device.exists_depth {d : Device} (hq : d.cfg.extractLsb' 0 2 ≠ 0b11#2) : ∃ n, d.depth = some n := by
  have enabled : ∀ c : BitVec 2, c ≠ 0b11#2 → (depthOf c).isSome = true := by decide
  exact Option.isSome_iff_exists.mp (enabled _ hq)

theorem Device.AlertHeld.compareSample_alert {d : Device} (h : d.AlertHeld) (x : Word) (al : Bool) (cn : Nat) :
    (d.compareSample x al cn).alert = true := by
  obtain ⟨n, hn⟩ := Device.exists_depth h.enabled
  obtain ⟨-, hset, -, hkeep⟩ := Device.compareSample_of_depth hn x al cn h.undrawn
  by_cases hcnt : (d.compareSample x al cn).cnt = n
  · exact hset hcnt
  · refine (hkeep hcnt fun hr => ?_).trans h.alert
    obtain ⟨hnl, -⟩ := hr
    exact Bool.false_ne_true (hnl.symm.trans h.latching)

theorem Device.AlertHeld.complete {d : Device} (h : d.AlertHeld) (x : Word) (al : Bool) (cn : Nat) :
    (d.complete x al cn).AlertHeld := by
  rw [Device.complete_eq]
  exact ⟨h.enabled, h.latching, h.compareSample_alert x al cn, h.undrawn⟩

/-- A conversion, of whatever device, leaves the device at `a` as it is or completed (R106). -/
theorem State.convert_get {s : State} {a : Strap} {d : Device} (hd : s.devices.get a = some d) (b : Strap) (x : Word)
    (al : Bool) (cn : Nat) :
    (s.convert b x al cn).devices.get a = some d ∨
      (s.convert b x al cn).devices.get a = some (d.complete x al cn) := by
  cases hb : s.devices.get b with
  | none => exact .inl (by simpa [State.convert, hb] using hd)
  | some e =>
    by_cases hm : e.mode = .powerDown
    · exact .inl (by rw [s.convert_of_powerDown hb hm, hd])
    · rw [s.convert_devices hb hm, Devices.get_set]
      split
      · next hab =>
        obtain rfl : d = e := Option.some.inj (hd.symm.trans (hab ▸ hb))
        exact .inr rfl
      · exact .inl hd

/-- No step but a frame clears a held alert or changes Config. -/
theorem State.agentStep_alertHeld {s : State} {a : Strap} {d : Device} {y : AgentStep}
    (hd : s.devices.get a = some d) (h : d.AlertHeld) (hf : ∀ f, AgentStep.foreign f ≠ y)
    (hc : ∀ k w, AgentStep.controller k w ≠ y) :
    ∃ d', (s.agentStep y).devices.get a = some d' ∧ d'.AlertHeld ∧ d'.cfg = d.cfg := by
  cases y with
  | convert b x al cn =>
    obtain hd' | hd' := s.convert_get hd b x al cn
    · exact ⟨d, hd', h, rfl⟩
    · exact ⟨_, hd', h.complete x al cn, congrArg Prod.snd (d.complete_ptr_cfg x al cn)⟩
  | deliver | deliverOther => exact ⟨d, hd, h, rfl⟩
  | controller k w => exact absurd rfl (hc k w)
  | foreign f => exact absurd rfl (hf f)

theorem State.agentSteps_alertHeld {s : State} {a : Strap} {d : Device} {steps : List AgentStep}
    (hd : s.devices.get a = some d) (h : d.AlertHeld) (hf : ∀ f, AgentStep.foreign f ∉ steps)
    (hc : ∀ k w, AgentStep.controller k w ∉ steps) :
    ∃ d', (s.agentSteps steps).devices.get a = some d' ∧ d'.AlertHeld ∧ d'.cfg = d.cfg := by
  induction steps generalizing s d with
  | nil => exact ⟨d, hd, h, rfl⟩
  | cons y ys ih =>
    obtain ⟨d1, hd1, h1, hcfg1⟩ := s.agentStep_alertHeld hd h (fun f => List.ne_of_not_mem_cons (hf f))
      fun k w => List.ne_of_not_mem_cons (hc k w)
    obtain ⟨d2, hd2, h2, hcfg2⟩ := ih hd1 h1 (fun f => List.not_mem_of_not_mem_cons (hf f))
      fun k w => List.not_mem_of_not_mem_cons (hc k w)
    exact ⟨d2, hd2, h2, hcfg2.trans hcfg1⟩

/-- Settles O41: every step that is no frame keeps `AlertHeld`. -/
theorem latchedAlertPersists : Obligations.LatchedAlertPersists := by
  intro s a d steps hd hq hl ha hc hforeign hcontroller
  have held : d.AlertHeld := ⟨hq, hl, ha, by rwa [← Bool.not_eq_true, Device.readyCombination_iff]⟩
  obtain ⟨d', hd', h', hcfg⟩ := s.agentSteps_alertHeld hd held hforeign hcontroller
  exact ⟨d', hd', h'.alert, hcfg⟩

/-! ### An asserting edge and the lines that watch it (R126, R127) -/

section

variable {s : State} {a : Strap} {d : Device} (hd : s.devices.get a = some d) (hm : d.mode ≠ .powerDown) {x : Word}
  {al : Bool} {cn : Nat}
include hd hm

/-- A conversion that asserts the alert completes the device and sends the edge to the lines. -/
theorem State.convert_of_edge (h : d.asserted = false) (h' : (d.complete x al cn).asserted = true) :
    s.convert a x al cn =
      State.alertEdge { s with devices := s.devices.set a (some (d.complete x al cn)) } a := by
  simp [State.convert, hd, Device.converting, hm, h, h']

/-- A conversion that makes no asserting edge completes the device and does nothing else. -/
theorem State.convert_of_no_edge (h : d.asserted = true ∨ (d.complete x al cn).asserted = false) :
    s.convert a x al cn = { s with devices := s.devices.set a (some (d.complete x al cn)) } := by
  rcases h with h | h <;> simp [State.convert, hd, Device.converting, hm, h]

end

theorem captureFor_of_armed {a : Strap} {h : Handle} {l : Line} (ha : h.addr = a.addr) (hl : l.armed = true) :
    captureFor a h l = { l with edge := true } := by
  rw [captureFor, if_pos ha, Line.capture, if_pos hl]

theorem captureFor_of_not_watching {a : Strap} {h : Handle} {l : Line} (hn : h.addr ≠ a.addr ∨ l.armed = false) :
    captureFor a h l = l := by
  rcases hn with hn | hn <;> simp [captureFor, Line.capture, hn]

theorem Line.step_of_captured {l : Line} (he : l.edge = true) (ha : l.armed = true) :
    l.step = { l with flag := true, edge := false } := by
  simp [Line.step, he, ha]

theorem Line.step_of_idle {l : Line} (h : l.edge = false ∨ l.armed = false) : l.step = l := by
  rcases h with h | h <;> simp [Line.step, h]

theorem State.agentStep_deliverOther {s : State} {k : Nat} {p : Session} (hp : s.others[k]? = some p) :
    s.agentStep (.deliverOther k) = { s with others := s.others.set k { p with line := p.line.step } } := by
  simp [State.agentStep, List.modify_eq_set_getElem?, hp]

/-- Settles O42: whether there is an edge, and of each line whether it watches the device and is armed. -/
theorem alertEdgeIsCapturedAndDelivered : Obligations.AlertEdgeIsCapturedAndDelivered := by
  refine ⟨?capture, ?deliver⟩
  case capture =>
    rintro s _ a d d' x al cn hd hm rfl hd'
    obtain rfl : d.complete x al cn = d' := by
      have hget : (s.convert a x al cn).devices.get a = some d' := hd'
      rw [s.convert_devices hd hm, Devices.get_set_self] at hget
      exact Option.some.inj hget
    refine ⟨fun h h' => ?_, fun hn => ?_⟩
    · rw [State.agentStep, s.convert_of_edge hd hm h h']
      refine ⟨captureFor_of_armed, captureFor_of_not_watching, List.length_map .., fun k p hp => ?_⟩
      rw [State.alertEdge_others, List.getElem?_map, hp]
      exact ⟨fun ha hl => by rw [Option.map_some, captureFor_of_armed ha hl],
        fun hn => by rw [Option.map_some, captureFor_of_not_watching hn]⟩
    · rw [State.agentStep, s.convert_of_no_edge hd hm hn]
      exact ⟨rfl, rfl⟩
  case deliver =>
    intro s
    refine ⟨fun he ha => by rw [State.agentStep, Line.step_of_captured he ha],
      fun h => by rw [State.agentStep, Line.step_of_idle h], fun k p hp => ?_⟩
    have hself : s.others.set k p = s.others := by
      obtain ⟨hk, rfl⟩ := List.getElem?_eq_some_iff.mp hp
      exact List.set_getElem_self hk
    rw [s.agentStep_deliverOther hp]
    exact ⟨fun he ha => by rw [Line.step_of_captured he ha], fun h => by rw [Line.step_of_idle h, hself]⟩


/-! ### Writes, acknowledged and failed (R73, R80) -/

section

variable {s : State} {a : Strap} {d : Device}

/-- A quiet gap takes its entry from the queue, whether or not the handle has a device. -/
theorem State.gap_of_quiet (hg : s.env.quiet 1) : s.gap = { s with env := s.env.after 0 1 } := by
  obtain ⟨gs, hg : s.env.gaps = [] :: gs⟩ := hg
  rw [State.gap_quiet hg]
  simp [Env.after, hg]

theorem State.Serves.served (h : s.Serves a d) (d' : Device) (n m : Nat) (sent : List Transfer) :
    (s.served a d' n m sent).Serves a d' := by
  obtain ⟨hl, ha, -⟩ := h
  exact ⟨hl, ha, State.served_get ..⟩

/-- `MemWrite` on an acknowledging bus. -/
theorem run_memWrite_served (r : WReg) (v : Word) (onFail : HostError → Routine) (onAck : Routine)
    (hd : s.devices.get a = some d) (hb : s.env.acks 1) :
    (memWrite a.addr r v onFail onAck).run false s = onAck.run true
      (s.served a (Device.write { d with ptr := r.toReg } r v) 1 0 [sentAck (.wr a.addr r v) []]) := by
  rw [memWrite, Routine.run_first, State.perform_tx_served (f := .wr a.addr r v) rfl hd hb rfl]
  rfl

/-- The device after a frame that failed with no effect or its full effect. -/
theorem Devices.set_took {ds : Devices} (hd : ds.get a = some d) (took : Bool) (e : Device) :
    (if took = true then ds.set a (some e) else ds) = ds.set a (some (if took = true then e else d)) := by
  cases took
  · simp [← hd]
  · rfl

variable {ans : BusAnswer} {how : BusFailure} {took : Bool} {rest : List BusAnswer} (hfail : FailsAs ans how took)
include hfail

/-- `MemWrite` whose frame fails: no effect or the full effect, and the error it raises. -/
theorem run_memWrite_failed (r : WReg) (v : Word) (onFail : HostError → Routine) (onAck : Routine)
    (hd : s.devices.get a = some d) (hb : s.env.frames = ans :: rest) :
    (memWrite a.addr r v onFail onAck).run false s = (onFail (.transport how .wr r.toReg)).run true
      (s.served a (if took then Device.write { d with ptr := r.toReg } r v else d) 1 0
        [sentFail (.wr a.addr r v) how]) := by
  rw [memWrite, Routine.run_first, State.perform_tx_fail (f := .wr a.addr r v) rfl hd hb hfail, Devices.set_took hd]
  simp [State.served, Env.after, hb, Reply.outcome, Device.deliver]

/-- A Config write of the running session that fails (R73, R92). -/
theorem State.perform_config_fail (v : Word) (after : Option Engine) (ha : s.handle.addr = a.addr)
    (hd : s.devices.get a = some d) (hb : s.env.frames = ans :: rest) :
    s.perform (.config v after) = (.bus (.error how), { s with
      devices := s.devices.set a (some (if took = true then Device.write { d with ptr := .config } .config v else d))
      handle := s.handle.afterConfigWrite v after (.error how)
      env := { s.env with frames := rest }
      wire := sentFail (.wr a.addr .config v) how :: s.wire }) := by
  have hn : ans ≠ .ack := by obtain ⟨rfl, -⟩ | ⟨rfl, -⟩ := hfail <;> nofun
  have hbus := busTx_fail (f := .wr a.addr .config v) (w := { bus := ans, os := false, arms := false }) rfl hd hfail
  rw [Devices.set_took hd] at hbus
  simp [State.perform, Env.drawsFor, ha, Env.frameDraws_cons (f := .wr a.addr .config v) hb (fun e => absurd e hn),
    Machine.perform, hbus, transferOf, sentFail, Device.deliver, WReg.toReg]

/-- A handle's Config write whose frame fails, where the command leaves the engine alone (R92, R108). -/
theorem run_writeConfig_failed (v : Word) (onFail : HostError → Routine) (onAck : Routine) (hs : s.Serves a d)
    (hb : s.env.frames = ans :: rest) :
    (writeConfig v none onFail onAck).run false s = (onFail (.transport how .wr .config)).run true
      (s.served a (if took then Device.write { d with ptr := .config } .config v else d) 1 0
        [sentFail (.wr a.addr .config v) how]) := by
  obtain ⟨-, ha, hd⟩ := hs
  rw [writeConfig, Routine.run_first, State.perform_config_fail hfail v none ha hd hb]
  simp [State.served, Env.after, hb, Handle.afterConfigWrite, Reply.outcome]

end

/-- The Config write of a command that leaves the engine alone, on an acknowledging bus (R92, R108). -/
theorem run_writeConfig_commits {s : State} {a : Strap} {d : Device} (v : Word) (onFail : HostError → Routine)
    (onAck : Routine) (hs : s.Serves a d) (hb : s.env.acks 1) :
    (writeConfig v none onFail onAck).run false s = onAck.run true
      { s.served a (Device.write { d with ptr := .config } .config v) 1 0 [sentAck (.wr a.addr .config v) []] with
        handle := s.handle.commit v } := by
  obtain ⟨-, ha, hd⟩ := hs
  obtain ⟨fs, hb : s.env.frames = .ack :: fs⟩ := hb
  rw [run_writeConfig_ack v none onFail onAck ha hd hb]
  simp [State.served, Env.after, hb, Handle.afterConfigWrite]

/-! ### A later write or read comes after a gap (R46) -/

theorem run_readSample_next (op : Byte) (g : Gain) (x : Addr) (s : State) :
    (readSample op g x).run true s = (readSample op g x).run false s.gap := rfl

theorem run_memWrite_next (x : Addr) (r : WReg) (v : Word) (onFail : HostError → Routine) (onAck : Routine)
    (s : State) : (memWrite x r v onFail onAck).run true s = (memWrite x r v onFail onAck).run false s.gap := rfl

theorem run_writeConfig_next (v : Word) (after : Option Engine) (onFail : HostError → Routine) (onAck : Routine)
    (s : State) : (writeConfig v after onFail onAck).run true s = (writeConfig v after onFail onAck).run false s.gap :=
  rfl

/-! ### The thresholds (R128) -/

section

variable {s : State} {a : Strap} {d : Device} (lo hi : Word) (onFail : HostError → Routine) (onAck : Routine)
  (hd : s.devices.get a = some d) (hg : s.env.quiet 1)
include hd hg

/-- The first threshold frame acknowledged, and a quiet gap after it. -/
theorem run_writeThresholds_low (hb : s.env.acks 1) :
    (writeThresholds a.addr lo hi onFail onAck).run false s = (memWrite a.addr .high hi onFail onAck).run false
      (s.served a { d with ptr := .low, low := lo } 1 1 [sentAck (.wr a.addr .low lo) []]) := by
  rw [writeThresholds, run_memWrite_served .low lo onFail _ hd hb, run_memWrite_next,
    State.gap_served (State.served_get ..) (by exact hg), State.served_served]
  rfl

/-- Both threshold frames acknowledged. -/
theorem run_writeThresholds_served (hb : s.env.acks 2) :
    (writeThresholds a.addr lo hi onFail onAck).run false s = onAck.run true
      (s.served a { d with ptr := .high, low := lo, high := hi } 2 1
        [sentAck (.wr a.addr .high hi) [], sentAck (.wr a.addr .low lo) []]) := by
  have hacks : (s.env.after 1 1).acks 1 := hb.after (by decide) 1
  rw [run_writeThresholds_low lo hi onFail onAck hd hg (hb.mono (by decide)),
    run_memWrite_served .high hi onFail onAck (State.served_get ..) hacks, State.served_served]
  rfl

end

/-- `setThresholds` of a live handle is its two frames. -/
theorem exec_setThresholds_of_live {s : State} (lo hi : Word) (hl : s.handle.live = true) :
    exec (.setThresholds lo hi) s = (writeThresholds s.handle.addr lo hi (raise Opcode.setThresholds)
      (succeed Opcode.setThresholds .unit)).run false s :=
  run_require hl ..

/-- Settles O43: both frames acknowledged, the first failed, the second failed. -/
theorem setThresholdsWritesBoth : Obligations.SetThresholdsWritesBoth := by
  rintro s a d lo hi ⟨hl, ha, hd⟩
  rw [exec_setThresholds_of_live lo hi hl, ha]
  refine ⟨fun hb hg => ?both, fun ans how took rest hfail hb => ?first, fun ans how took rest hfail hb hg => ?second⟩
  case both => exact run_writeThresholds_served lo hi _ _ hd hg hb
  case first => exact run_memWrite_failed hfail .low lo _ _ hd hb
  case second =>
    have hrest : (s.env.after 1 1).frames = ans :: rest := by rw [Env.after, hb]; rfl
    rw [run_writeThresholds_low lo hi _ _ hd hg ⟨_, hb⟩,
      run_memWrite_failed hfail .high hi _ _ (State.served_get ..) hrest, State.served_served]
    rfl

/-! ### Enabling the comparator (R129, R130) -/

theorem gain_compareWord (base : Word) (k : CompareArgs) : (fieldsOf (compareWord base k)).gain = k.gain := by
  rw [compareWord, fieldsOf_buildWord]

/-- The Config write of `enableComparator` and `armComparator` on an acknowledging bus, where `h` is the handle the
command began with. -/
theorem run_writeEnable_served {s : State} {a : Strap} {d : Device} {h : Handle} (op : Byte) (k : CompareArgs)
    {w : Word} (hw : w = compareWord h.base k) (hs : s.Serves a d) (hb : s.env.acks 1) :
    (writeEnable op k h).run false s = .next ({ s.served a
      { d with ptr := .config, cfg := w.extractLsb' 0 15, mode := modeAfterWrite w d.mode, fresh := false, cnt := 0,
               alert := false } 1 0 [sentAck (.wr a.addr .config w) []] with
        handle := { s.handle with cache := some w, gain := some k.gain, engine := .idle } }.succeed op .unit) := by
  subst hw
  rw [writeEnable, run_writeConfig_served _ _ _ _ hs hb, Handle.commit, gain_compareWord]
  rfl

theorem run_writeEnable_next (op : Byte) (k : CompareArgs) (h : Handle) (s : State) :
    (writeEnable op k h).run true s = (writeEnable op k h).run false s.gap := rfl

/-- Settles O44: the checked operands, and the Config write. -/
theorem enableComparatorWritesItsFields : Obligations.EnableComparatorWritesItsFields := by
  rintro s a d ci gi cm p l q k w hs he hb hk (hw : w = compareWord s.handle.base k)
  rw [exec_eq_run, routine, enableComparatorRoutine, run_require (Handle.acquires hs.1 he), run_checked_ok hk]
  exact run_writeEnable_served _ k hw hs hb

theorem checkVolts_of_finite {v : F64} (h : Fp.isFinite v = true) (g : Gain) : checkVolts v g = .ok (voltsCode v g) :=
  if_pos h

theorem checkVolts_of_not_finite {v : F64} (h : Fp.isFinite v = false) (g : Gain) : checkVolts v g = .error .volts := by
  rw [checkVolts, h]
  rfl

section

variable {ci gi cm p l q : Nat} {k : CompareArgs} (hk : checkCompareArgs ci gi cm p l q = .ok k) {low high : F64}
include hk

theorem checkArm_of_args : checkArm ci gi cm p l q low high = (do
    let lo ← checkVolts low k.gain
    let hi ← checkVolts high k.gain
    if Fp.gt low high then .error .thresholdOrder else return (k, lo, hi)) := by
  rw [checkArm, hk]
  rfl

/-- Finite voltages pass as their codes where low is not above high (R130). -/
theorem checkArm_of_finite (hlow : Fp.isFinite low = true) (hhigh : Fp.isFinite high = true) :
    checkArm ci gi cm p l q low high = if Fp.gt low high then .error .thresholdOrder
      else .ok (k, voltsCode low k.gain, voltsCode high k.gain) := by
  rw [checkArm_of_args hk, checkVolts_of_finite hlow, checkVolts_of_finite hhigh]
  rfl

/-- A voltage that is not finite is named before the order of the two is looked at (R140, log entry 24). -/
theorem checkArm_of_not_finite (h : Fp.isFinite low = false ∨ Fp.isFinite high = false) :
    checkArm ci gi cm p l q low high = .error .volts := by
  rw [checkArm_of_args hk]
  cases hlow : Fp.isFinite low with
  | false =>
    rw [checkVolts_of_not_finite hlow]
    rfl
  | true =>
    have hhigh : Fp.isFinite high = false := h.resolve_left (by simp [hlow])
    rw [checkVolts_of_finite hlow, checkVolts_of_not_finite hhigh]
    rfl

end

/-- Settles O45: the two threshold frames, and the Config write of `enableComparator` after them. -/
theorem armComparatorWritesThresholdsThenConfig : Obligations.ArmComparatorWritesThresholdsThenConfig := by
  rintro s a d ci gi cm p l q k low high lo hi w hs he hb hg hk hlow hhigh horder rfl rfl
    (hw : w = compareWord s.handle.base k)
  obtain ⟨hl, ha, hd⟩ := id hs
  have hcheck := checkArm_of_finite hk hlow hhigh
  rw [horder, if_neg Bool.false_ne_true] at hcheck
  have hquiet : (s.env.after 2 1).quiet 1 := hg.after (by decide) 2
  have hacks : (s.env.after 2 2).acks 1 := hb.after (by decide) 2
  rw [exec_eq_run, routine, armComparatorRoutine, run_require (Handle.acquires hl he), run_checked_ok hcheck, ha,
    run_writeThresholds_served _ _ _ _ hd (hg.mono (by decide)) (hb.mono (by decide)), run_writeEnable_next,
    State.gap_served (State.served_get ..) hquiet, State.served_served,
    run_writeEnable_served _ k hw (hs.served ..) hacks, State.served_served]
  rfl

/-- Settles O46: the checks stop the command before its first frame. -/
theorem invertedThresholdsAreRejected : Obligations.InvertedThresholdsAreRejected := by
  intro s ci gi cm p l q k low high hl he hk
  rw [exec_eq_run, routine, armComparatorRoutine, run_require (Handle.acquires hl he)]
  refine ⟨fun hlow hhigh horder => run_checked_error ?_ .., fun h => run_checked_error (checkArm_of_not_finite hk h) ..⟩
  rw [checkArm_of_finite hk hlow hhigh, horder]
  rfl

/-! ### Disabling the comparator (R131) -/

/-- COMP_QUE of the word that disables the comparator, as the device stores it. -/
theorem extractLsb'_disabledWord (base : Word) : ((disabledWord base).extractLsb' 0 15).extractLsb' 0 2 = 0b11#2 := by
  obtain ⟨-, -, -, -, -, -, -, -, h0⟩ := buildWord_fields { fieldsOf base with trigger := false, queue := .disabled }
  exact (extractLsb'_extractLsb' _ (by decide)).trans h0

/-- A device that has taken that word has its pin high-impedance (R31). -/
theorem Device.pin_write_disabledWord (d : Device) (base : Word) :
    (d.write .config (disabledWord base)).pin = .highZ :=
  if_pos (extractLsb'_disabledWord base)

/-- Settles O47: the acknowledged Config write, committed, with the engine left alone. -/
theorem disableComparatorReleasesThePin : Obligations.DisableComparatorReleasesThePin := by
  rintro s a d _ hs he hb rfl
  refine ⟨_, ?_, rfl, Device.pin_write_disabledWord { d with ptr := .config } _⟩
  rw [exec_eq_run, routine, disableComparatorRoutine, run_require (Handle.acquires hs.1 he)]
  exact run_writeConfig_commits _ _ _ hs hb

/-! ### The interrupt line (R132 to R134) -/

/-- Settles O49: both require a live handle, and take one step on the line. -/
theorem disarmAndClearTouchTheLineOnly : Obligations.DisarmAndClearTouchTheLineOnly :=
  fun _ => ⟨fun hl => ⟨run_require hl .., run_require hl ..⟩,
    fun hl => ⟨run_require_refused hl .., run_require_refused hl ..⟩⟩

theorem Handle.comparatorCached_eq_false {h : Handle} :
    h.comparatorCached = false ↔ ∀ c, h.cache = some c → c.extractLsb' 0 2 = 0b11#2 := by
  unfold Handle.comparatorCached
  cases h.cache <;> simp

/-- What follows the collaborator's Fail: the unwind of a cached comparator where the engine is free, and LineArmError
(R132). -/
def unwindLine (h : Handle) : Routine :=
  if h.comparatorCached && h.engine.free then
    writeConfig (disabledWord h.base) none (fun e => raiseLineArm (some e)) (raiseLineArm none)
  else raiseLineArm none

section

variable {s : State} {arms : List Bool} (hl : s.handle.live = true)
include hl

theorem exec_armAlertLine_of_armed (h : s.env.arms = true :: arms) :
    exec .armAlertLine s = .next ({ s with env := { s.env with arms }, line := { s.line with armed := true } }.succeed
      0x44#8 .unit) := by
  have hperform : s.perform .arm = (.bit true,
      { s with env := { s.env with arms }, line := { s.line with armed := true } }) := by
    simp [State.perform, Env.drawsFor, Env.nextArm_cons h, Machine.perform]
  rw [exec_eq_run, routine, armAlertLineRoutine, run_require hl, Routine.run_first, hperform]
  rfl

theorem exec_armAlertLine_of_failed (h : s.env.arms = false :: arms) :
    exec .armAlertLine s = (unwindLine s.handle).run true { s with env := { s.env with arms } } := by
  have hperform : s.perform .arm = (.bit false, { s with env := { s.env with arms } }) := by
    simp [State.perform, Env.drawsFor, Env.nextArm_cons h, Machine.perform]
  rw [exec_eq_run, routine, armAlertLineRoutine, run_require hl, Routine.run_first, hperform]
  rfl

/-- Where the cached comparator is enabled and the engine free, the unwind is the Config write of `disableComparator`,
after a gap (R131, R132). -/
theorem exec_armAlertLine_of_unwinding {a : Strap} {d : Device} {c : Word} (hd : s.devices.get a = some d)
    (he : s.handle.engine = .idle ∨ s.handle.engine = .ready) (harms : s.env.arms = false :: arms)
    (hg : s.env.quiet 1) (hc : s.handle.cache = some c) (hq : c.extractLsb' 0 2 ≠ 0b11#2) :
    exec .armAlertLine s =
      (writeConfig (disabledWord c) none (fun e => raiseLineArm (some e)) (raiseLineArm none)).run false
        (State.served { s with env := { s.env with arms } } a d 0 1 []) := by
  have hcached : s.handle.comparatorCached = true := by simp [Handle.comparatorCached, hc, hq]
  have hfree : s.handle.engine.free = true := by rcases he with he | he <;> simp [Engine.free, he]
  have hbase : s.handle.base = c := by rw [Handle.base, hc]; rfl
  have hgap := State.gap_served (s := { s with env := { s.env with arms } }) hd hg
  rw [exec_armAlertLine_of_failed hl harms, unwindLine, hcached, hfree, hbase, Bool.and_self, if_pos rfl,
    run_writeConfig_next, hgap]

end

/-- Settles O48: the collaborator arms; or it fails, and there is nothing to unwind; or the unwind's Config write is
acknowledged or fails. -/
theorem armAlertLineArmsOrUnwinds : Obligations.ArmAlertLineArmsOrUnwinds := by
  intro s arms hl
  refine ⟨exec_armAlertLine_of_armed hl, fun h hn => ?alone, ?unwind⟩
  case alone =>
    have hskip : (s.handle.comparatorCached && s.handle.engine.free) = false := by
      obtain hc | he | he := hn
      · rw [Handle.comparatorCached_eq_false.mpr hc, Bool.false_and]
      · simp [Engine.free, he]
      · simp [Engine.free, he]
    rw [exec_armAlertLine_of_failed hl h, unwindLine, hskip]
    rfl
  case unwind =>
    rintro a d _ c _ hs he harms hg hc hq rfl rfl
    obtain ⟨-, -, hd⟩ := id hs
    have hexec := exec_armAlertLine_of_unwinding hl hd he harms hg hc hq
    have hserves : (State.served { s with env := { s.env with arms } } a d 0 1 []).Serves a d := hs.served d 0 1 []
    refine ⟨Device.pin_write_disabledWord { d with ptr := .config } c, fun hb => ?acked,
      fun ans how took rest hfail hb => ?failed⟩
    case acked =>
      rw [run_writeConfig_commits _ _ _ hserves (by exact hb), State.served_served] at hexec
      exact hexec
    case failed =>
      rw [run_writeConfig_failed hfail _ _ _ hserves (by exact hb), State.served_served] at hexec
      exact hexec

/-! ### Waiting for an alert (R135, R136) -/

section

variable {s : State} (g : Gain) (k n : Nat) (left : Nat)

/-- A look changes nothing, and goes by the flag (R136). -/
theorem run_alertLoop_look (x : Addr) : (alertLoop g k n x (left + 1)).run false s =
    (if s.line.flag then .ask .clearFlag fun _ => readSample Opcode.waitForAlert g x
      else alertLoop g k n x left : Routine).run true s := rfl

theorem run_alertLoop_clear (x : Addr) (hf : s.line.flag = false) :
    (alertLoop g k n x (left + 1)).run false s = (alertLoop g k n x left).run true s := by
  rw [run_alertLoop_look, hf, if_neg Bool.false_ne_true]

theorem run_alertLoop_next (x : Addr) :
    (alertLoop g k n x (left + 1)).run true s = (alertLoop g k n x (left + 1)).run false s.gap := rfl

/-- With no flag and no other agent the looks go on to the last, each after a gap (R136, log entry 27). -/
theorem run_alertLoop_timeout (x : Addr) (hf : s.line.flag = false) (hg : s.env.quiet left) :
    (alertLoop g k n x left).run true s =
      .next (({ s with env := s.env.after 0 left }.setEngine .idle).raise 0x47#8 (.alertTimeout k n)) := by
  induction left generalizing s with
  | zero => rfl
  | succ left ih =>
    have hquiet : (s.env.after 0 1).quiet left := hg.after (by omega) 0
    have hrest := ih (s := { s with env := s.env.after 0 1 }) hf hquiet
    rw [run_alertLoop_next, State.gap_of_quiet (hg.mono (Nat.le_add_left 1 left)),
      run_alertLoop_clear g k n left x (by exact hf), hrest, Env.after_after, Nat.add_comm 1]

end

/-- `waitForAlert` with a free engine and a legal gain looks at least once. -/
theorem exec_waitForAlert_of_ok {s : State} {k gi : Nat} {g : Gain} (hl : s.handle.live = true)
    (he : s.handle.engine = .idle ∨ s.handle.engine = .ready) (hg : checkGain gi = .ok g) :
    ∃ left, alertPolls k s.handle.dataRate = left + 1 ∧
      exec (.waitForAlert k gi) s = (alertLoop g k (left + 1) s.handle.addr (left + 1)).run false s := by
  obtain ⟨left, hleft⟩ : ∃ left, alertPolls k s.handle.dataRate = left + 1 := ⟨_, Nat.add_comm ..⟩
  refine ⟨left, hleft, ?_⟩
  rw [exec_eq_run, routine, waitForAlertRoutine, run_require (Handle.acquires hl he), run_checkedGainIdle_ok hg]
  dsimp only
  rw [hleft]

/-- Settles O51: the first look, and the rest of the loop. -/
theorem waitForAlertTimesOut : Obligations.WaitForAlertTimesOut := by
  intro s k gi n g hl he hg hf hn hq
  obtain ⟨left, hleft, hexec⟩ := exec_waitForAlert_of_ok (k := k) hl he hg
  obtain rfl : n = left + 1 := hn.trans hleft
  rw [run_alertLoop_clear g k _ left _ hf, run_alertLoop_timeout g k _ left _ hf (hq.mono left.le_succ)] at hexec
  exact ⟨_, hexec, rfl, rfl, rfl, rfl, rfl, rfl⟩

/-- The Conversion read on an acknowledging, quiet bus (R114, R123). -/
theorem run_readSample_served {s : State} {a : Strap} {d : Device} (op : Byte) (g : Gain)
    (hd : s.devices.get a = some d) (hb : s.env.acks 2) (hg : s.env.quiet 1) :
    (readSample op g a.addr).run false s = .next (((s.served a
      { d with ptr := .conversion, alert := if d.cfg.getLsbD 2 = true then false else d.alert } 2 1
      [sentAck (.rd a.addr) (wordBytes d.conversion), sentAck (.ptr a.addr .conversion) []]).setEngine .idle).succeed op
        (.sample d.conversion (rawToVolts d.conversion g))) := by
  rw [readSample, run_memRead_served (p := .conversion) (hd := hd) (hb := hb) (hg := hg) (ho := nofun),
    Device.afterRead_eq]
  simp only [true_and]
  rfl

/-- A look at a set flag clears it after one quiet gap, and reads Conversion after another (R136). -/
theorem run_alertLoop_set {s : State} {a : Strap} {d : Device} (g : Gain) (k n left : Nat)
    (hd : s.devices.get a = some d) (hf : s.line.flag = true) (hb : s.env.acks 2) (hq : s.env.quiet 3) :
    (alertLoop g k n a.addr (left + 1)).run false s = .next ({ s.served a
      { d with ptr := .conversion, alert := if d.cfg.getLsbD 2 = true then false else d.alert } 2 3
      [sentAck (.rd a.addr) (wordBytes d.conversion), sentAck (.ptr a.addr .conversion) []] with
        handle := { s.handle with engine := .idle }, line := { s.line with flag := false } }.succeed 0x47#8
          (.sample d.conversion (rawToVolts d.conversion g))) := by
  have hlook : (alertLoop g k n a.addr (left + 1)).run false s =
      (readSample Opcode.waitForAlert g a.addr).run true (s.gap.perform .clearFlag).2 := by
    rw [run_alertLoop_look, if_pos hf]
    rfl
  have hclear : (s.gap.perform .clearFlag).2 =
      State.served { s with line := { s.line with flag := false } } a d 0 1 [] := by
    rw [State.gap_served hd (hq.mono (by decide))]
    rfl
  have hquiet : (s.env.after 0 1).quiet 1 := hq.after (by decide) 0
  have hquiet' : (s.env.after 0 2).quiet 1 := hq.after (by decide) 0
  rw [hlook, hclear, run_readSample_next, State.gap_served (State.served_get ..) (by exact hquiet), State.served_served,
    run_readSample_served _ g (State.served_get ..) (by exact hb) (by exact hquiet'), State.served_served]
  rfl

/-- Settles O50: the first look finds the flag set. -/
theorem waitForAlertReturnsTheSample : Obligations.WaitForAlertReturnsTheSample := by
  rintro s a d k gi g ⟨hl, ha, hd⟩ he hg hf hb hq
  obtain ⟨left, -, hexec⟩ := exec_waitForAlert_of_ok (k := k) hl he hg
  rw [hexec, ha, run_alertLoop_set g k _ left hd hf hb hq]

/-! ### From a sample outside the window to the host (R137) -/

/-- The device free-runs with its comparator in Window mode, latching, with depth 1, and not under the conversion-ready
combination. -/
structure Device.WindowArmed (d : Device) : Prop where
  continuous : d.mode = .continuous
  depthOne   : d.cfg.extractLsb' 0 2 = 0b00#2
  latching   : d.cfg.getLsbD 2 = true
  window     : d.cfg.getLsbD 4 = true
  undrawn    : d.readyCombination = false

theorem Device.complete_keeps (d : Device) (x : Word) (al : Bool) (cn : Nat) :
    (d.complete x al cn).conversion = x ∧ (d.complete x al cn).low = d.low ∧ (d.complete x al cn).high = d.high := by
  rw [Device.complete_eq]
  exact ⟨rfl, rfl, rfl⟩

section

variable {d : Device} (h : d.WindowArmed) (x : Word) (al : Bool) (cn : Nat)
include h

theorem Device.WindowArmed.running : d.mode ≠ .powerDown := by simp [h.continuous]

theorem Device.WindowArmed.complete : (d.complete x al cn).WindowArmed := by
  obtain ⟨hm, hq, hl, hw, hc⟩ := h
  rw [Device.complete_eq]
  exact ⟨by simp [hm], hq, hl, hw, hc⟩

/-- Reading Conversion leaves the comparator armed. -/
theorem Device.WindowArmed.read (y : Word) (p : Reg) (alert : Bool) :
    Device.WindowArmed { d with conversion := y, ptr := p, alert } :=
  ⟨h.continuous, h.depthOne, h.latching, h.window, h.undrawn⟩

/-- With depth 1 one sample outside the window asserts the alert. -/
theorem Device.WindowArmed.asserted_of_outside (hx : x.toInt < d.low.toInt ∨ d.high.toInt < x.toInt) :
    (d.complete x al cn).asserted = true := by
  obtain ⟨hcnt, hset, -, -⟩ :=
    Device.compareSample_of_depth (Device.depth_of_code (.inl ⟨h.depthOne, rfl⟩)) x al cn h.undrawn
  have htrip : d.trips x = true := Device.trips_iff.mpr (hx.symm.imp_right fun hx => ⟨h.window, hx⟩)
  have hfull : (d.compareSample x al cn).cnt = 1 := by
    rw [hcnt, if_pos htrip]
    exact Nat.min_eq_right (Nat.le_add_left 1 _)
  rw [Device.complete_eq, Device.asserted, Device.compQue, h.depthOne, hset hfull]
  rfl

/-- A sample inside the window leaves a clear alert clear. -/
theorem Device.WindowArmed.not_asserted_of_inside (ha : d.alert = false) (hlow : d.low.toInt ≤ x.toInt)
    (hhigh : x.toInt ≤ d.high.toInt) : (d.complete x al cn).asserted = false := by
  obtain ⟨hcnt, -, hclear, hkeep⟩ :=
    Device.compareSample_of_depth (Device.depth_of_code (.inl ⟨h.depthOne, rfl⟩)) x al cn h.undrawn
  have htrip : d.trips x ≠ true := by
    rw [ne_eq, Device.trips_iff]
    omega
  have hshort : (d.compareSample x al cn).cnt ≠ 1 := by
    rw [hcnt, if_neg htrip]
    exact Nat.zero_ne_one
  have halert : (d.compareSample x al cn).alert = false := by
    by_cases hr : d.Releases x
    · exact hclear hshort hr
    · exact (hkeep hshort hr).trans ha
  rw [Device.complete_eq, Device.asserted, halert, Bool.and_false]

variable {s : State} {a : Strap} (hd : s.devices.get a = some d) (ha : d.alert = false)
include hd ha

/-- The edge of a sample outside the window reaches the flag of the armed line with the line's own step (R126, R127). -/
theorem State.convert_deliver_of_outside (hx : x.toInt < d.low.toInt ∨ d.high.toInt < x.toInt)
    (haddr : s.handle.addr = a.addr) (harmed : s.line.armed = true) :
    (s.agentSteps [.convert a x al cn, .deliver]).devices.get a = some (d.complete x al cn) ∧
    (s.agentSteps [.convert a x al cn, .deliver]).line = { armed := true, edge := false, flag := true } := by
  have hbefore : d.asserted = false := by rw [Device.asserted, ha, Bool.and_false]
  show (s.convert a x al cn).devices.get a = _ ∧ (s.convert a x al cn).line.step = _
  rw [s.convert_of_edge hd h.running hbefore (h.asserted_of_outside x al cn hx)]
  refine ⟨Devices.get_set_self .., ?_⟩
  rw [State.alertEdge_line, captureFor_of_armed haddr harmed, Line.step_of_captured rfl (by exact harmed), harmed]

theorem State.convert_line_of_inside (hlow : d.low.toInt ≤ x.toInt) (hhigh : x.toInt ≤ d.high.toInt) :
    (s.agentStep (.convert a x al cn)).line = s.line := by
  rw [State.agentStep,
    s.convert_of_no_edge hd h.running (.inr (h.not_asserted_of_inside x al cn ha hlow hhigh))]

end

/-- Settles O52: the edge reaches the flag, `waitForAlert` reads the sample and clears the latch, and the later sample
makes no edge. -/
theorem windowAlertReachesTheHost : Obligations.WindowAlertReachesTheHost := by
  rintro s a d x y al al' cn cn' k gi g ⟨hl, haddr, hd⟩ hm hq hlatch hw ha hylow hyhigh hc hx harmed he hg hb hquiet
  have h : d.WindowArmed := ⟨hm, hq, hlatch, hw, by rwa [← Bool.not_eq_true, Device.readyCombination_iff]⟩
  obtain ⟨hdevice, hline⟩ := State.convert_deliver_of_outside h x al cn hd ha hx haddr harmed
  obtain ⟨hhandle, -, henv, -⟩ := s.agentSteps_keeps [.convert a x al cn, .deliver]
  generalize s.agentSteps [.convert a x al cn, .deliver] = u at *
  have hwait := waitForAlertReturnsTheSample u a _ k gi g ⟨hhandle ▸ hl, hhandle ▸ haddr, hdevice⟩ (hhandle ▸ he) hg
    (by rw [hline]) (henv ▸ hb) (henv ▸ hquiet)
  obtain ⟨hconversion, hlow, hhigh⟩ := d.complete_keeps x al cn
  rw [if_pos (h.complete x al cn).latching, hline, hconversion] at hwait
  have hread : Device.WindowArmed { d.complete x al cn with conversion := x, ptr := .conversion, alert := false } :=
    (h.complete x al cn).read ..
  refine ⟨_, _, hwait, rfl, rfl, Devices.get_set_self .., rfl, ?_⟩
  exact State.convert_line_of_inside hread y al' cn' (Devices.get_set_self ..) rfl (hlow ▸ hylow) (hhigh ▸ hyhigh)

end Sys2Proof.Machine
end

section
/-! The errors of commands: their statuses and causes, and where each is raised. A ConfigError comes before anything
else the command does; a TransportError comes with the frame that failed. -/

namespace Sys2Proof.Machine

/-! ### Statuses and causes (R138, R141) -/

theorem HostError.status_of_ne_config {e : HostError} (h : ∀ what, e ≠ .config what) : e.status = 1 := by
  cases e with
  | config what => exact absurd rfl (h what)
  | transport | conversionTimeout | alertTimeout | lineArm => rfl

/-- Settles O59: each status and each cause is an equation of the model; `status_of_ne_config` says whose
status is 1. -/
theorem statusCodesOfResults : Obligations.StatusCodesOfResults :=
  ⟨fun _ => rfl, fun _ _ => rfl, fun _ _ h => HostError.status_of_ne_config h, fun _ _ _ => rfl, fun _ => rfl,
    fun _ _ => rfl, fun _ _ => rfl, rfl⟩

/-! ### What an error says of the state it leaves -/

/-- Where the outcome is a next state in which the command has returned with an error, `R` holds of the two. -/
def OnError (out : Out) (R : State → HostError → Prop) : Prop :=
  ∀ t op e b, out = .next t → t.host.holding = false →
    t.host.report = some { opcode := op, answer := .failed e b } → R t e

theorem OnError.mono {out : Out} {R R' : State → HostError → Prop} (h : OnError out R) (hR : ∀ t e, R t e → R' t e) :
    OnError out R' :=
  fun t op e b ht hh hr => hR t e (h t op e b ht hh hr)

theorem onError_answer {s : State} {op : Option Byte} {a : Answer} {R : State → HostError → Prop}
    (h : ∀ e b, a = .failed e b → R (s.answer op a) e) : OnError (.next (s.answer op a)) R := by
  rintro _ _ e b ⟨⟩ - ⟨⟩
  exact h e b rfl

/-- From `s` to `t` nothing but the engine and the host's record has changed. -/
def EngineOnly (s t : State) : Prop :=
  t.wire = s.wire ∧ t.devices = s.devices ∧ t.line = s.line ∧ t.env = s.env ∧ t.others = s.others ∧
  t.handle = { s.handle with engine := t.handle.engine }

/-- The frame is of the kind and, where it carries one, of the register that a TransportError records (R138). -/
def FrameKind.Names : FrameKind → Reg → Frame → Prop
  | .ptr, p, f => f = .ptr f.addr p
  | .wr, p, f => ∃ r v, f = .wr f.addr r v ∧ r.toReg = p
  | .rd, _, f => f = .rd f.addr

/-- The newest frame on the wire is the controller's own, to bus address `x`, failed as the TransportError says. -/
def LastFailed (x : Addr) (how : BusFailure) (kind : FrameKind) (p : Reg) (t : State) : Prop :=
  ∃ f rest, t.wire = sentFail f how :: rest ∧ f.addr = x ∧ kind.Names p f

/-- What an error of a command on the handle `h` says of the state `t` the command left: `C` if it is a ConfigError; if
a TransportError, that the last frame failed and what handle its register leaves. -/
def Accounted (C : Prop) (h : Handle) (after : Reg → Handle) (t : State) : HostError → Prop
  | .config _ => C
  | .transport how kind p => LastFailed h.addr how kind p t ∧ t.handle = after p
  | .conversionTimeout _ _ => True
  | .alertTimeout _ _ => True
  | .lineArm => True

/-- A whole command on the handle `h`: a ConfigError leaves all but the engine as it was (R140), a TransportError is of
the last frame (R145). -/
def Routine.Accounts (h : Handle) (after : Reg → Handle) (m : Routine) : Prop :=
  ∀ s, s.handle = h → OnError (m.run false s) fun t e => Accounted (EngineOnly s t) h after t e

/-- A command whose operands have passed, from wherever it stands: it ends in no ConfigError, and a TransportError is of
the last frame. -/
def Routine.OperandsPassed (h : Handle) (after : Reg → Handle) (m : Routine) : Prop :=
  ∀ begun s, s.handle = h → OnError (m.run begun s) (Accounted False h after)

/-! ### Routines that blame neither operands nor bus -/

/-- The error is neither a ConfigError nor a TransportError. -/
def HostError.Other : HostError → Prop
  | .transport _ _ _ => False
  | .config _ => False
  | .conversionTimeout _ _ => True
  | .alertTimeout _ _ => True
  | .lineArm => True

/-- Whatever the answers, an error the routine reports is neither a ConfigError nor a TransportError. -/
def Routine.BlamesOther : Routine → Prop
  | .done _ a => ∀ e b, a = .failed e b → e.Other
  | .hold => True
  | .refuse _ => True
  | .set _ rest => rest.BlamesOther
  | .ask _ next => ∀ r, (next r).BlamesOther

theorem Routine.BlamesOther.run {m : Routine} (hm : m.BlamesOther) (begun : Bool) (s : State) :
    OnError (m.run begun s) fun _ e => e.Other := by
  induction m generalizing begun s with
  | done op a => exact onError_answer hm
  | hold => rintro _ _ _ _ ⟨⟩ ⟨⟩
  | refuse r => rintro _ _ _ _ ⟨⟩
  | set u rest ih => exact ih hm begun (s.update u)
  | ask a next ih =>
    rw [Routine.run]
    exact ih _ (hm _) true _

theorem blamesOther_succeed (op : Byte) (v : Value) : (succeed op v).BlamesOther := by
  rintro _ _ ⟨⟩

theorem blamesOther_set (u : Update) {rest : Routine} (h : rest.BlamesOther) : (Routine.set u rest).BlamesOther := h

theorem blamesOther_require {c : Bool} {r : Refusal} {m : Routine} (h : m.BlamesOther) :
    (require c r m).BlamesOther := by
  unfold require
  split
  · exact h
  · trivial

theorem blamesOther_raiseIdle (op : Byte) {e : HostError} (he : e.Other) : (raiseIdle op e).BlamesOther := by
  rintro _ _ ⟨⟩
  exact he

theorem blamesOther_raiseLineArm (beside : Option HostError) : (raiseLineArm beside).BlamesOther := by
  rintro _ _ ⟨⟩
  trivial

theorem blamesOther_rawFrame (f : Frame) : (rawFrame f).BlamesOther := by
  intro r e b h
  cases hr : r.outcome with
  | error how => rw [hr] at h; cases h
  | ok bytes => rw [hr] at h; cases f <;> cases h

theorem blamesOther_delayRoutine (assume : Bool) (ms : Nat) (h : Handle) (holding : Bool) :
    (delayRoutine assume ms h holding).BlamesOther := by
  refine blamesOther_require ?_
  split
  · intro r
    dsimp only
    split
    · trivial
    · exact blamesOther_succeed _ _
  · exact blamesOther_succeed _ _

/-- `armAlertLine` reports LineArmError, whatever becomes of its unwind (R132, R143). -/
theorem blamesOther_armAlertLineRoutine (h : Handle) : (armAlertLineRoutine h).BlamesOther := by
  refine blamesOther_require fun r => ?_
  dsimp only
  split
  · exact blamesOther_succeed _ _
  · split
    · intro reply
      dsimp only
      split
      · exact blamesOther_raiseLineArm _
      · exact blamesOther_raiseLineArm _
    · exact blamesOther_raiseLineArm _

section

variable {h : Handle} {after : Reg → Handle}

theorem HostError.Other.accounted {e : HostError} (he : e.Other) (C : Prop) (t : State) : Accounted C h after t e := by
  cases e with
  | transport | config => exact he.elim
  | conversionTimeout | alertTimeout | lineArm => trivial

theorem Accounted.of_false {C : Prop} {t : State} {e : HostError} (he : Accounted False h after t e) :
    Accounted C h after t e := by
  cases e with
  | config => exact he.elim
  | transport | conversionTimeout | alertTimeout | lineArm => exact he

theorem Routine.BlamesOther.operandsPassed {m : Routine} (hm : m.BlamesOther) : m.OperandsPassed h after :=
  fun begun s _ => (hm.run begun s).mono fun t _ he => he.accounted _ t

theorem Routine.OperandsPassed.accounts {m : Routine} (hm : m.OperandsPassed h after) : m.Accounts h after :=
  fun s hs => (hm false s hs).mono fun _ _ => Accounted.of_false

theorem Routine.BlamesOther.accounts {m : Routine} (hm : m.BlamesOther) : m.Accounts h after :=
  hm.operandsPassed.accounts

/-! ### The check of the operands (R140) -/

theorem accounts_require {c : Bool} {r : Refusal} {m : Routine} (hm : m.Accounts h after) :
    (require c r m).Accounts h after :=
  fun s hs t op e b hx => hm s hs t op e b (run_require_next hx)

theorem accounts_checked {α : Type} {op : Byte} {c : Except Culprit α} {body : α → Routine}
    (hb : ∀ x, (body x).OperandsPassed h after) : (checked op c body).Accounts h after := by
  unfold checked
  split
  · refine fun s _ => onError_answer ?_
    rintro _ _ ⟨⟩
    exact ⟨rfl, rfl, rfl, rfl, rfl, rfl⟩
  · exact (hb _).accounts

theorem accounts_checkedGainIdle {op : Byte} {gain : Nat} {body : Gain → Routine}
    (hb : ∀ g, (body g).OperandsPassed h after) : (checkedGainIdle op gain body).Accounts h after := by
  unfold checkedGainIdle
  split
  · refine fun s _ => onError_answer ?_
    rintro _ _ ⟨⟩
    exact ⟨rfl, rfl, rfl, rfl, rfl, rfl⟩
  · exact (hb _).accounts

/-! ### Controller steps and failed frames (R73, R145) -/

/-- A later controller step, after a gap, finds the same handle as a first one. -/
theorem operandsPassed_of_first {a : Action} {next : Reply → Routine}
    (hf : ∀ s : State, s.handle = h →
      OnError ((next (s.perform a).1).run true (s.perform a).2) (Accounted False h after)) :
    (Routine.ask a next).OperandsPassed h after := by
  intro begun s hs
  cases begun with
  | false => exact hf s hs
  | true => exact hf s.gap hs

/-- How a command ends on a failed frame: it moves the handle by `k` and raises the error. -/
def RaisesAfter (k : Handle → Handle) (onFail : HostError → Routine) : Prop :=
  ∀ e begun s, ∃ op, (onFail e).run begun s = .next ({ s with handle := k s.handle }.raise op e)

theorem raise_raisesAfter (op : Byte) : RaisesAfter id (raise op) := fun _ _ _ => ⟨op, rfl⟩

theorem raiseIdle_raisesAfter (op : Byte) : RaisesAfter (·.setEngine .idle) (raiseIdle op) := fun _ _ _ => ⟨op, rfl⟩

theorem RaisesAfter.accounted {k : Handle → Handle} {onFail : HostError → Routine} (hk : RaisesAfter k onFail)
    {s : State} {rest : List Transfer} {how : BusFailure} {kind : FrameKind} {p : Reg} {f : Frame}
    (hw : s.wire = sentFail f how :: rest) (hx : f.addr = h.addr) (hn : kind.Names p f) (ha : k s.handle = after p)
    (begun : Bool) : OnError ((onFail (.transport how kind p)).run begun s) (Accounted False h after) := by
  obtain ⟨op, hr⟩ := hk (.transport how kind p) begun s
  rw [hr]
  refine onError_answer ?_
  rintro _ _ ⟨⟩
  exact ⟨⟨f, rest, hw, hx, hn⟩, ha⟩

theorem State.perform_tx_failed {s : State} {f : Frame} {how : BusFailure}
    (hf : (s.perform (.tx f)).1.outcome = .error how) : (s.perform (.tx f)).2.wire = sentFail f how :: s.wire := by
  obtain ⟨w, e, hp⟩ := s.perform_tx f
  rw [hp] at hf ⊢
  exact congrArg (transferOf .controller f · :: s.wire) hf

theorem State.perform_config_failed {s : State} {v : Word} {eng : Option Engine} {how : BusFailure}
    (hf : (s.perform (.config v eng)).1.outcome = .error how) :
    (s.perform (.config v eng)).2.wire = sentFail (.wr s.handle.addr .config v) how :: s.wire ∧
    (s.perform (.config v eng)).2.handle = s.handle.afterConfigWrite v eng (.error how) := by
  obtain ⟨w, e, ⟨out, ds⟩, -, hp⟩ := s.perform_config v eng
  rw [hp] at hf ⊢
  obtain rfl : out = .error how := hf
  exact ⟨rfl, rfl⟩

/-- A controller step that is no frame. -/
theorem operandsPassed_ask {a : Action} {next : Reply → Routine} (ha : ∀ s : State, (s.perform a).2.handle = s.handle)
    (hn : ∀ r, (next r).OperandsPassed h after) : (Routine.ask a next).OperandsPassed h after :=
  operandsPassed_of_first fun s hs => hn _ true _ ((ha s).trans hs)

section

variable {k : Handle → Handle} {onFail : HostError → Routine} (hk : RaisesAfter k onFail)
include hk

theorem operandsPassed_memRead {p : Reg} {onRead : Word → Routine} (ha : k h = after p)
    (hv : ∀ v, (onRead v).OperandsPassed h after) : (memRead h.addr p onFail onRead).OperandsPassed h after := by
  refine operandsPassed_of_first fun s hs => ?_
  split
  · rename_i how hf
    exact hk.accounted (kind := .ptr) (State.perform_tx_failed hf) rfl rfl ((congrArg k hs).trans ha) true
  · refine operandsPassed_of_first (fun u hu => ?_) true _ hs
    split
    · rename_i how hf
      exact hk.accounted (kind := .rd) (State.perform_tx_failed hf) rfl rfl ((congrArg k hu).trans ha) true
    · exact hv _ true _ hu

theorem operandsPassed_memWrite {r : WReg} {v : Word} {onAck : Routine} (ha : k h = after r.toReg)
    (hn : onAck.OperandsPassed h after) : (memWrite h.addr r v onFail onAck).OperandsPassed h after := by
  refine operandsPassed_of_first fun s hs => ?_
  split
  · rename_i how hf
    exact hk.accounted (kind := .wr) (State.perform_tx_failed hf) rfl ⟨r, v, rfl, rfl⟩ ((congrArg k hs).trans ha) true
  · exact hn true _ hs

theorem operandsPassed_writeConfig {v : Word} {eng : Option Engine} {onAck : Routine}
    (ha : ∀ how, k (h.afterConfigWrite v eng (.error how)) = after .config) (hn : onAck.BlamesOther) :
    (writeConfig v eng onFail onAck).OperandsPassed h after := by
  refine operandsPassed_of_first fun s hs => ?_
  split
  · rename_i how hf
    obtain ⟨hw, hh⟩ := State.perform_config_failed hf
    exact hk.accounted (kind := .wr) (p := .config) hw (congrArg Handle.addr hs) ⟨.config, v, rfl, rfl⟩
      (by rw [hh, hs, ha]) true
  · exact (hn.run true _).mono fun t _ he => he.accounted _ t

end

/-! ### The commands' routines -/

theorem operandsPassed_readSample (op : Byte) (g : Gain) (ha : h.setEngine .idle = after .conversion) :
    (readSample op g h.addr).OperandsPassed h after :=
  operandsPassed_memRead (raiseIdle_raisesAfter op) ha fun _ =>
    (blamesOther_set _ (blamesOther_succeed _ _)).operandsPassed

theorem operandsPassed_pollLoop (rate : DataRate) (n : Nat) (ha : h.setEngine .idle = after .config) (left : Nat) :
    (pollLoop rate n h.addr left).OperandsPassed h after := by
  induction left with
  | zero => exact Routine.BlamesOther.operandsPassed (blamesOther_raiseIdle _ trivial)
  | succ left ih =>
    refine operandsPassed_memRead (raiseIdle_raisesAfter _) ha fun v => ?_
    split
    · exact (blamesOther_set _ (blamesOther_succeed _ _)).operandsPassed
    · exact ih

theorem operandsPassed_alertLoop (g : Gain) (k n : Nat) (ha : h.setEngine .idle = after .conversion) (left : Nat) :
    (alertLoop g k n h.addr left).OperandsPassed h after := by
  induction left with
  | zero => exact Routine.BlamesOther.operandsPassed (blamesOther_raiseIdle _ trivial)
  | succ left ih =>
    refine operandsPassed_ask (fun _ => rfl) fun r => ?_
    split
    · exact operandsPassed_ask (fun _ => rfl) fun _ => operandsPassed_readSample _ g ha
    · exact ih

theorem operandsPassed_writeThresholds (op : Byte) {low high : Word} {onAck : Routine} (hlow : h = after .low)
    (hhigh : h = after .high) (hn : onAck.OperandsPassed h after) :
    (writeThresholds h.addr low high (raise op) onAck).OperandsPassed h after :=
  operandsPassed_memWrite (raise_raisesAfter op) hlow (operandsPassed_memWrite (raise_raisesAfter op) hhigh hn)

/-- The Config write of a command that then succeeds. -/
theorem operandsPassed_lastConfig (op : Byte) {v : Word} {eng : Option Engine}
    (ha : ∀ how, h.afterConfigWrite v eng (.error how) = after .config) :
    (writeConfig v eng (raise op) (succeed op .unit)).OperandsPassed h after :=
  operandsPassed_writeConfig (raise_raisesAfter op) ha (blamesOther_succeed _ _)

end

/-- The handle a command leaves when a frame of register `p` has failed: R108's error edges, and no change elsewhere. -/
def Handle.afterFailure (h : Handle) : Instr → Reg → Handle
  | .startSingleShot .., _ => h.setEngine .idle
  | .startContinuous .., _ => h.setEngine .idle
  | .enableComparator .., _ => h.setEngine .idle
  | .armComparator .., p => if p = .config then h.setEngine .idle else h
  | .pollUntilReady _, _ => h.setEngine .idle
  | .readConversion _, _ => h.setEngine .idle
  | .waitForAlert .., _ => h.setEngine .idle
  | _, _ => h

/-- Every command checks its operands before its first controller step, and ends at a frame that fails. -/
theorem routine_accounts (i : Instr) (h : Handle) (holding : Bool) :
    (routine i h holding).Accounts h (h.afterFailure i) := by
  have done (op v) : (succeed op v).OperandsPassed h (h.afterFailure i) := (blamesOther_succeed op v).operandsPassed
  cases i with
  | init => exact accounts_checked fun _ => (blamesOther_set _ (blamesOther_succeed _ _)).operandsPassed
  | buildConfig | scaleToVoltage | voltsToCode => exact accounts_checked fun _ => done _ _
  | deinit | disarmAlertLine => exact accounts_require (blamesOther_set _ (blamesOther_succeed _ _)).accounts
  | clearAlertFlag => exact accounts_require (Routine.BlamesOther.accounts fun _ => blamesOther_succeed _ _)
  | decodeConfig => exact (done _ _).accounts
  | readRegister =>
    exact accounts_require (accounts_checked fun p =>
      operandsPassed_memRead (raise_raisesAfter _) rfl fun _ => done _ _)
  | writeRegister =>
    refine accounts_require (accounts_checked fun r => ?_)
    cases r with
    | config => exact operandsPassed_lastConfig _ fun _ => rfl
    | low | high => exact operandsPassed_memWrite (raise_raisesAfter _) rfl (done _ _)
  | startSingleShot | startContinuous | enableComparator =>
    exact accounts_require (accounts_checked fun _ => operandsPassed_lastConfig _ fun _ => rfl)
  | pollUntilReady => exact accounts_require (accounts_checked fun rate => operandsPassed_pollLoop rate _ rfl _)
  | readConversion => exact accounts_require (accounts_checkedGainIdle fun g => operandsPassed_readSample _ g rfl)
  | delay => exact (blamesOther_delayRoutine ..).accounts
  | setThresholds => exact accounts_require (operandsPassed_writeThresholds (h := h) _ rfl rfl (done _ _)).accounts
  | armComparator =>
    exact accounts_require (accounts_checked fun _ =>
      operandsPassed_writeThresholds _ rfl rfl (operandsPassed_lastConfig _ fun _ => rfl))
  | disableComparator => exact accounts_require (operandsPassed_lastConfig _ fun _ => rfl).accounts
  | armAlertLine => exact (blamesOther_armAlertLineRoutine h).accounts
  | waitForAlert =>
    exact accounts_require (accounts_checkedGainIdle fun g => operandsPassed_alertLoop g _ _ rfl _)
  | ptr | wrConfig | wrLoThresh | wrHiThresh | rd => exact (blamesOther_rawFrame _).accounts
  | wrConversion => exact Routine.BlamesOther.accounts trivial

theorem exec_accounted (i : Instr) (s : State) :
    OnError (exec i s) fun t e => Accounted (EngineOnly s t) s.handle (s.handle.afterFailure i) t e := by
  rw [exec_eq_run]
  exact routine_accounts i s.handle s.host.holding s rfl

/-- Settles O53: what `exec_accounted` says of a ConfigError. -/
theorem configErrorSendsNoFrame : Obligations.ConfigErrorSendsNoFrame :=
  fun i s t op what b hx hh hr => exec_accounted i s t op (.config what) b hx hh hr

/-- Settles O54: what `exec_accounted` says of a TransportError, and the handle that `Handle.afterFailure` gives each
command. -/
theorem transportErrorIsTheLastFrame : Obligations.TransportErrorIsTheLastFrame := by
  intro i s t op how kind p b hx hh hr
  obtain ⟨⟨f, rest, hw, haddr, hf⟩, ht⟩ := exec_accounted i s t op (.transport how kind p) b hx hh hr
  have names : ∀ k, kind = k → k.Names p f := by
    rintro _ rfl
    exact hf
  refine ⟨f, rest, hw, haddr, names .ptr, names .rd, names .wr, fun hidle => ht.trans ?_, fun hsame => ht.trans ?_⟩
  · obtain ⟨_, _, rfl⟩ | ⟨_, _, _, rfl⟩ | ⟨_, _, _, _, _, _, rfl⟩ | ⟨rfl, _, _, _, _, _, _, _, _, rfl⟩ |
      ⟨_, rfl⟩ | ⟨_, rfl⟩ | ⟨_, _, rfl⟩ := hidle <;> rfl
  · obtain ⟨_, rfl⟩ | ⟨_, _, rfl⟩ | ⟨_, _, rfl⟩ | rfl | ⟨hp, _, _, _, _, _, _, _, _, rfl⟩ := hsame
    case inr.inr.inr.inr => exact if_neg hp
    all_goals rfl

end Sys2Proof.Machine
end

section
/-! The two whole-machine rules of reset and hazards: the agreement of a handle's cache with its device, and the
commands that a dead handle and a busy engine refuse. -/

namespace Sys2Proof.Machine

/-! ### Frames that leave every stored Config word (R74) -/

/-- No device's stored Config word differs. -/
def Devices.KeepsCfg (ds ds' : Devices) : Prop := ∀ a, (ds'.get a).map Device.cfg = (ds.get a).map Device.cfg

theorem Devices.SameConfig.keepsCfg {ds ds' : Devices} (h : ds.SameConfig ds') : ds.KeepsCfg ds' := by
  intro a
  simpa [Option.map_map, Function.comp_def] using congrArg (Option.map Prod.snd) (h a)

/-- Only a Config write reaches the stored Config word (R74, R76). -/
theorem Device.deliver_cfg (d : Device) {f : Frame} (hf : ∀ x w, f ≠ .wr x .config w) : (d.deliver f).cfg = d.cfg := by
  cases f with
  | ptr x p => rfl
  | wr x r v =>
    cases r with
    | config => exact absurd rfl (hf x v)
    | low | high => rfl
  | rd x => rw [Device.deliver, Device.afterRead_eq]

/-- A frame's effect at the position it addresses, populated or not. -/
theorem Devices.get_deliver_addressed (ds : Devices) {f : Frame} {a : Strap} (hf : f.addr = a.addr) :
    (ds.deliver f).get a = (ds.get a).map (·.deliver f) := by
  simp [Devices.deliver, hf]

theorem Devices.keepsCfg_deliver (ds : Devices) {f : Frame} (hf : ∀ x w, f ≠ .wr x .config w) :
    ds.KeepsCfg (ds.deliver f) := by
  intro a
  by_cases ha : f.addr = a.addr
  · have hcfg : Device.cfg ∘ (·.deliver f) = Device.cfg := funext fun d => d.deliver_cfg hf
    rw [ds.get_deliver_addressed ha, Option.map_map, hcfg]
  · rw [Devices.deliver_other ha]

/-- At most one frame that is no Config write, whoever sent it and however it ended. -/
theorem AtMostOneFrame.keepsCfg {who : Sender} {ds ds' : Devices} {sent : List Transfer}
    (h : AtMostOneFrame who ds ds' sent) (hf : ∀ y ∈ sent, ∀ x w, y.frame ≠ .wr x .config w) : ds.KeepsCfg ds' := by
  obtain ⟨-, rfl⟩ | ⟨y, rfl, -, hack, hfail⟩ := h
  · exact fun _ => rfl
  · have full : ds.KeepsCfg (ds.deliver y.frame) := ds.keepsCfg_deliver (hf y (List.mem_singleton_self y))
    by_cases hy : y.failure = none
    · exact hack hy ▸ full
    · obtain rfl | rfl := hfail hy
      · exact fun _ => rfl
      · exact full

/-! ### The cache and its device (R168) -/

/-- If the frame is a write, the running session's controller sent it and it was acknowledged. -/
def Transfer.OwnWrite (y : Transfer) : Prop :=
  ∀ a r v, y.frame = .wr a r v → y.sender = .controller ∧ y.failure = none

theorem Transfer.OwnWrite.not_write_of_other {y : Transfer} (h : y.OwnWrite) (hy : y.sender = .other) (x : Addr)
    (r : WReg) (w : Word) : y.frame ≠ .wr x r w := by
  intro hf
  obtain ⟨hs, -⟩ := h x r w hf
  exact nomatch hy.symm.trans hs

/-- The agreement is about the handle and the stored Config words alone. -/
theorem State.CacheAgrees.of_keepsCfg {s t : State} (h : s.CacheAgrees) (hh : t.handle = s.handle)
    (hk : s.devices.KeepsCfg t.devices) : t.CacheAgrees := by
  intro c d hc hd
  rw [hh] at hc hd
  obtain ⟨a, ha, hd⟩ := Devices.at_eq_some.mp hd
  obtain ⟨e, he, hcfg⟩ : ∃ e, s.devices.get a = some e ∧ e.cfg = d.cfg := by
    have hka := hk a
    rw [hd] at hka
    exact Option.map_eq_some_iff.mp hka.symm
  exact hcfg ▸ h c e hc (Devices.at_eq_some.mpr ⟨a, ha, he⟩)

/-- A Config write that has taken effect and is committed makes cache and device agree, whatever they were (R92). -/
theorem State.cacheAgrees_of_committed {s t : State} {w : Word} (hh : t.handle = s.handle.commit w)
    (hd : t.devices = s.devices.deliver (.wr s.handle.addr .config w)) : t.CacheAgrees := by
  intro c d hc hat
  rw [hh] at hc hat
  obtain rfl : w = c := Option.some.inj hc
  obtain ⟨a, ha, hget⟩ := Devices.at_eq_some.mp hat
  rw [hd, s.devices.get_deliver_addressed (f := .wr s.handle.addr .config w) ha] at hget
  obtain ⟨e, -, rfl⟩ := Option.map_eq_some_iff.mp hget
  rfl

/-- From `s` to `t` the cache goes on agreeing with the device, if every write among the frames that crossed the bus was
the controller's own and acknowledged. -/
def KeepsAgreement (s t : State) : Prop :=
  ∃ sent, SentBetween s t sent ∧ ((∀ y ∈ sent, y.OwnWrite) → s.CacheAgrees → t.CacheAgrees)

theorem KeepsAgreement.refl (s : State) : KeepsAgreement s s := ⟨[], rfl, fun _ h => h⟩

theorem KeepsAgreement.trans {s t u : State} (h : KeepsAgreement s t) (h' : KeepsAgreement t u) :
    KeepsAgreement s u := by
  obtain ⟨sent, hsent, hs⟩ := h
  obtain ⟨sent', hsent', ht⟩ := h'
  refine ⟨sent' ++ sent, by rw [SentBetween, hsent', hsent, List.append_assoc], fun own ha => ?_⟩
  obtain ⟨own', own⟩ := List.forall_mem_append.mp own
  exact ht own' (hs own ha)

/-- The agreement outlives another agent's step: only another session's frame or a foreign one reaches a Config word,
and neither may be a write. -/
theorem State.agentStep_keepsAgreement (s : State) (x : AgentStep) : KeepsAgreement s (s.agentStep x) := by
  have frames {t : State} {sent : List Transfer} (hh : t.handle = s.handle) (hw : SentBetween s t sent)
      (hsent : AtMostOneFrame .other s.devices t.devices sent) (ho : ∀ y ∈ sent, y.sender = .other) :
      KeepsAgreement s t :=
    ⟨sent, hw, fun own ha => ha.of_keepsCfg hh (hsent.keepsCfg fun y hy x w =>
      (own y hy).not_write_of_other (ho y hy) x .config w)⟩
  cases x with
  | convert a v al c =>
    obtain ⟨hh, -, -, hw, -⟩ := s.convert_keeps a v al c
    exact ⟨[], hw, fun _ ha => ha.of_keepsCfg hh (s.convert_sameConfig a v al c).keepsCfg⟩
  | deliver | deliverOther => exact ⟨[], rfl, fun _ ha => ha⟩
  | controller k w =>
    cases hk : s.others[k]? with
    | none =>
      rw [State.agentStep_controller_none hk]
      exact .refl s
    | some p =>
      obtain ⟨-, ho⟩ := p.turn_sent w s.devices
      rw [State.agentStep_controller hk]
      exact frames rfl rfl (p.turn_atMostOneFrame w s.devices) ho
  | foreign f =>
    exact frames (sent := [⟨.other, f, none, []⟩]) rfl rfl (.inr ⟨_, rfl, rfl, fun _ => rfl, absurd rfl⟩) (by simp)

theorem State.agentSteps_keepsAgreement (s : State) (xs : List AgentStep) : KeepsAgreement s (s.agentSteps xs) := by
  induction xs generalizing s with
  | nil => exact .refl s
  | cons x xs ih => exact (s.agentStep_keepsAgreement x).trans (ih (s.agentStep x))

theorem State.gap_keepsAgreement (s : State) : KeepsAgreement s s.gap := by
  obtain ⟨sent, hw, keeps⟩ := s.agentSteps_keepsAgreement s.env.nextGap.1
  obtain ⟨hh, -⟩ := s.agentSteps_keeps s.env.nextGap.1
  exact ⟨sent, hw, fun own ha => (keeps own ha).of_keepsCfg hh.symm fun _ => rfl⟩

/-- Of the controller's own micro steps, a committed Config write brings the agreement about, and a write that failed is
shut out; no other reaches cache or Config word. -/
theorem Micro.keepsAgreement {s t : State} (m : Micro s t) : KeepsAgreement s t := by
  cases m with
  | gap => exact s.gap_keepsAgreement
  | draws | engine | line | dies | answer | hold => exact ⟨[], rfl, fun _ ha => ha⟩
  | acked f bytes hf => exact ⟨[_], rfl, fun _ ha => ha.of_keepsCfg rfl (s.devices.keepsCfg_deliver hf)⟩
  | configured w => exact ⟨[_], rfl, fun _ _ => State.cacheAgrees_of_committed (s := s) rfl rfl⟩
  | failed f how took =>
    refine ⟨[_], rfl, fun own ha => ha.of_keepsCfg rfl ?_⟩
    cases took with
    | false => exact fun _ => rfl
    | true =>
      refine s.devices.keepsCfg_deliver fun x w hf => ?_
      obtain ⟨-, hn⟩ := own _ (List.mem_singleton_self _) x .config w hf
      cases hn

theorem Micros.keepsAgreement {s t : State} (h : Micros s t) : KeepsAgreement s t := by
  induction h with
  | refl => exact .refl s
  | tail _ m ih => exact ih.trans m.keepsAgreement

/-- Settles O56: a command but `init` and a raw Config write is a sequence of micro steps, and each keeps the
agreement. -/
theorem cacheKeepsAgreeingWithTheDevice : Obligations.CacheKeepsAgreeingWithTheDevice := by
  intro i s t sent ha h hi hw hsent own
  obtain ⟨sent', hsent', keeps⟩ := (exec_micros h hi hw).keepsAgreement
  obtain rfl : sent' = sent := List.append_cancel_right (hsent'.symm.trans hsent)
  exact keeps own ha

/-! ### Commands that are refused (R108, R110, R156) -/

/-- Settles O31: each gated command requires a live handle, or one with an engine that allows it, before all else; and
WR_CONVERSION is refused in any state. -/
theorem livenessAndEngineGateCommands : Obligations.LivenessAndEngineGateCommands := by
  intro s
  refine ⟨fun hl i hinit hbuild hdecode hscale hvolts hptr hconfig hlow hhigh hrd => ?_,
    fun he c g r cm p l q k lo hi => ?_, fun he r => run_require_refused (by simp [he]) ..⟩
  · have dead (b : Bool) : (s.handle.live && b) = false := by rw [hl, Bool.false_and]
    cases i with
    | init => exact (hinit _ rfl).elim
    | buildConfig => exact (hbuild _ _ _ _ _ _ _ _ _ rfl).elim
    | decodeConfig => exact (hdecode _ rfl).elim
    | scaleToVoltage => exact (hscale _ _ rfl).elim
    | voltsToCode => exact (hvolts _ _ rfl).elim
    | ptr => exact (hptr _ _ rfl).elim
    | wrConfig => exact (hconfig _ _ rfl).elim
    | wrLoThresh => exact (hlow _ _ rfl).elim
    | wrHiThresh => exact (hhigh _ _ rfl).elim
    | rd => exact (hrd _ rfl).elim
    | wrConversion => exact ⟨.writeToConversion, rfl⟩
    | deinit | readRegister | writeRegister | delay | setThresholds | armAlertLine | disarmAlertLine
    | clearAlertFlag => exact ⟨.deadHandle, run_require_refused hl ..⟩
    | pollUntilReady => exact ⟨.noConversion, run_require_refused (dead _) ..⟩
    | startSingleShot | readConversion | startContinuous | enableComparator | armComparator | disableComparator
    | waitForAlert => exact ⟨.engineBusy, run_require_refused (dead _) ..⟩
  · have busy : (s.handle.live && s.handle.engine.free) = false := by simp [he, Engine.free]
    exact ⟨run_require_refused busy .., run_require_refused busy .., run_require_refused busy ..,
      run_require_refused busy .., run_require_refused busy .., run_require_refused busy ..,
      run_require_refused busy ..⟩

end Sys2Proof.Machine
end
